-- ==== Sys2Proof/Word.lean ====
section
/-! DEFINITION. The widths of the coder block's values (spec/00_scope.md R5, R7; spec/30_encoding.md R70, R81).
Every value is unsigned (R9). -/

namespace Sys2Proof

/-- A byte, also an element of GF(256) (R20, R100). -/
abbrev Byte := BitVec 8

/-- A command word, a response, a buffer word, the `CRC` register (R7, R5). -/
abbrev Word := BitVec 32

/-- A 10-bit line symbol (R5 `SYM_BITS`). -/
abbrev Symbol := BitVec 10

/-- An entry of the code table: bits 9:0 the symbol, bit 10 the next state (R81). -/
abbrev Entry := BitVec 11

/-- A symbol index or a byte index (R7). -/
abbrev Index := BitVec 16

/-- The number of one of the `NLANES` = 3 accumulators (R5, R20). -/
abbrev Lane := Fin 3

/-- One parity accumulator: `NPAR` = 32 bytes (R5, R20). -/
abbrev Accumulator := Vector Byte 32

/-- The accumulator whose 32 bytes are all zero (R34, R107). -/
def zeroAccumulator : Accumulator := Vector.replicate 32 0

end Sys2Proof
end

