-- ==== Sys2Proof/Syntax.lean ====
section
/-! DEFINITION. The commands of PSCC-1, one constructor per row of spec/opcode_table.json, the operands being the
fields of the row's format as they stand (spec/30_encoding.md R70, R71, R73). -/

namespace Sys2Proof

/-- A command with its fields. `b` is `B`, `ls` and `last` are `FL` (R70). -/
inductive Instr where
  | rsClear
  | rsUpdate (lane : BitVec 2) (data8 : Byte)
  | rsRead (lane : BitVec 2) (pos : BitVec 5)
  | encByte (data8 : Byte)
  | encSync
  | putSym (b : Bool) (idx : Index) (sym : Symbol)
  | getSym (b : Bool) (idx : Index)
  | frameBegin (b : Bool) (ls : Bool)
  | frameData (data8 : Byte)
  | frameEnd (last : Bool)
  | rdStatus (sel : BitVec 2)
deriving DecidableEq, Repr

/-- The mnemonic of the command's row (R74). -/
def Instr.mnemonic : Instr → String
  | .rsClear => "RS_CLEAR"
  | .rsUpdate _ _ => "RS_UPDATE"
  | .rsRead _ _ => "RS_READ"
  | .encByte _ => "ENC_BYTE"
  | .encSync => "ENC_SYNC"
  | .putSym _ _ _ => "PUT_SYM"
  | .getSym _ _ => "GET_SYM"
  | .frameBegin _ _ => "FRAME_BEGIN"
  | .frameData _ => "FRAME_DATA"
  | .frameEnd _ => "FRAME_END"
  | .rdStatus _ => "RD_STATUS"

end Sys2Proof
end

