-- ==== Sys2Proof/WellFormed.lean ====
section
/-! DEFINITION. Which commands a word can carry without being reserved. The field widths are in the types of
Syntax; the one check left is `LANE` (spec/30_encoding.md R73, R75 (c)). -/

namespace Sys2Proof

/-- R75 (c): `LANE` = 3 names no accumulator. "No other field value is illegal" (R217). -/
def Instr.wf : Instr → Bool
  | .rsClear => true
  | .rsUpdate lane _ => lane != 3
  | .rsRead lane _ => lane != 3
  | .encByte _ => true
  | .encSync => true
  | .putSym _ _ _ => true
  | .getSym _ _ => true
  | .frameBegin _ _ => true
  | .frameData _ => true
  | .frameEnd _ => true
  | .rdStatus _ => true

/-- The command's fields are legal. -/
abbrev WellFormed (i : Instr) : Prop := i.wf = true

end Sys2Proof
end

