-- ==== Sys2Proof/Decode.lean ====
section
/-! DEFINITION. The command word: fields, formats, the opcode map, decoding and encoding
(spec/30_encoding.md R70 to R76, R87). -/

namespace Sys2Proof

/-- Why a word is reserved: the three kinds of R75. -/
inductive Reserved where
  /-- R75 (a): `OP` is 0x0 or 0xC to 0xF. -/
  | opcode
  /-- R75 (b): a must-be-zero bit of the format is set. -/
  | mustBeZero
  /-- R75 (c): RS_UPDATE or RS_READ with `LANE` = 3. -/
  | lane3
deriving DecidableEq, Repr

/-- What a word decodes to: one command with its fields, or reserved (R76). -/
inductive Decoded where
  | command (i : Instr)
  | reserved (why : Reserved)
deriving DecidableEq, Repr

/-- The field of `len` bits whose lowest bit is `lo` (R9). -/
def bitField (lo len : Nat) (w : Word) : BitVec len := w.extractLsb' lo len

/-- All of the `len` bits from bit `lo` up are 0 (R71). -/
def zeroBits (lo len : Nat) (w : Word) : Bool := bitField lo len w == 0

/-- `OP`, bits 31:28 (R70). -/
def fieldOp (w : Word) : BitVec 4 := bitField 28 4 w
/-- `B`, bit 27 (R70). -/
def fieldB (w : Word) : Bool := w.getLsbD 27
/-- `FL`, bit 26 (R70). -/
def fieldFl (w : Word) : Bool := w.getLsbD 26
/-- `IDX`, bits 25:10 (R70). -/
def fieldIdx (w : Word) : Index := bitField 10 16 w
/-- `SYM`, bits 9:0 (R70). -/
def fieldSym (w : Word) : Symbol := bitField 0 10 w
/-- `LANE`, bits 9:8 (R70). -/
def fieldLane (w : Word) : BitVec 2 := bitField 8 2 w
/-- `DATA8`, bits 7:0 (R70). -/
def fieldData8 (w : Word) : Byte := bitField 0 8 w
/-- `POS`, bits 4:0 (R70). -/
def fieldPos (w : Word) : BitVec 5 := bitField 0 5 w
/-- `SEL`, bits 1:0 (R70). -/
def fieldSel (w : Word) : BitVec 2 := bitField 0 2 w

/-- The command `i` if the must-be-zero bits of its format are 0 (R71). -/
def requireZero (mbz : Bool) (i : Instr) : Decoded :=
  if mbz then .command i else .reserved .mustBeZero

/-- The row of R74 a word fits, with the fields of the row's format (R71); `LANE` is taken as it stands. -/
def readRow (w : Word) : Decoded :=
  match (fieldOp w).toNat with
  | 0x1 => requireZero (zeroBits 0 28 w) .rsClear
  | 0x2 => requireZero (zeroBits 10 18 w) (.rsUpdate (fieldLane w) (fieldData8 w))
  | 0x3 => requireZero (zeroBits 10 18 w && zeroBits 5 3 w) (.rsRead (fieldLane w) (fieldPos w))
  | 0x4 => requireZero (zeroBits 8 20 w) (.encByte (fieldData8 w))
  | 0x5 => requireZero (zeroBits 0 28 w) .encSync
  | 0x6 => requireZero (zeroBits 26 1 w) (.putSym (fieldB w) (fieldIdx w) (fieldSym w))
  | 0x7 => requireZero (zeroBits 26 1 w && zeroBits 0 10 w) (.getSym (fieldB w) (fieldIdx w))
  | 0x8 => requireZero (zeroBits 0 26 w) (.frameBegin (fieldB w) (fieldFl w))
  | 0x9 => requireZero (zeroBits 8 20 w) (.frameData (fieldData8 w))
  | 0xA => requireZero (zeroBits 27 1 w && zeroBits 0 26 w) (.frameEnd (fieldFl w))
  | 0xB => requireZero (zeroBits 2 26 w) (.rdStatus (fieldSel w))
  | _ => .reserved .opcode

/-- R76: every 32-bit word is exactly one command with its fields, or reserved (R75). -/
def decode (w : Word) : Decoded :=
  match readRow w with
  | .command i => if i.wf then .command i else .reserved .lane3
  | .reserved why => .reserved why

/-- The word of a command, as each command's rule spells it (R107 to R109, R133, R134, R154, R155, R172, R174,
R176, R200). -/
def encode : Instr → Word
  | .rsClear => 0x10000000#32
  | .rsUpdate lane data8 => 0x20000000#32 ||| (lane.setWidth 32 <<< 8) ||| data8.setWidth 32
  | .rsRead lane pos => 0x30000000#32 ||| (lane.setWidth 32 <<< 8) ||| pos.setWidth 32
  | .encByte data8 => 0x40000000#32 ||| data8.setWidth 32
  | .encSync => 0x50000000#32
  | .putSym b idx sym =>
    0x60000000#32 ||| ((BitVec.ofBool b).setWidth 32 <<< 27) ||| (idx.setWidth 32 <<< 10) ||| sym.setWidth 32
  | .getSym b idx => 0x70000000#32 ||| ((BitVec.ofBool b).setWidth 32 <<< 27) ||| (idx.setWidth 32 <<< 10)
  | .frameBegin b ls =>
    0x80000000#32 ||| ((BitVec.ofBool b).setWidth 32 <<< 27) ||| ((BitVec.ofBool ls).setWidth 32 <<< 26)
  | .frameData data8 => 0x90000000#32 ||| data8.setWidth 32
  | .frameEnd last => 0xA0000000#32 ||| ((BitVec.ofBool last).setWidth 32 <<< 26)
  | .rdStatus sel => 0xB0000000#32 ||| sel.setWidth 32

/-- One row of the opcode map: a word is the command of the row exactly when `word and mask` = `pattern`, the
spec's `match` (R74). -/
structure Row where
  mnemonic : String
  pattern : Word
  mask : Word
deriving DecidableEq, Repr

/-- The word fits the row (R74). -/
def Row.fits (r : Row) (w : Word) : Bool := w &&& r.mask == r.pattern

/-- The opcode map of R74. -/
def opcodeMap : List Row :=
  [⟨"RS_CLEAR", 0x10000000, 0xFFFFFFFF⟩,
   ⟨"RS_UPDATE", 0x20000000, 0xFFFFFC00⟩,
   ⟨"RS_READ", 0x30000000, 0xFFFFFCE0⟩,
   ⟨"ENC_BYTE", 0x40000000, 0xFFFFFF00⟩,
   ⟨"ENC_SYNC", 0x50000000, 0xFFFFFFFF⟩,
   ⟨"PUT_SYM", 0x60000000, 0xF4000000⟩,
   ⟨"GET_SYM", 0x70000000, 0xF40003FF⟩,
   ⟨"FRAME_BEGIN", 0x80000000, 0xF3FFFFFF⟩,
   ⟨"FRAME_DATA", 0x90000000, 0xFFFFFF00⟩,
   ⟨"FRAME_END", 0xA0000000, 0xFBFFFFFF⟩,
   ⟨"RD_STATUS", 0xB0000000, 0xFFFFFFFC⟩]

/-- The command the decoder reads from an instruction of `nbits` bits given as the number `w`, bit 0 the least
significant bit of the word; the bits above `nbits` are 0. Every command is one 32-bit word (R70, R87). -/
def decodeTableWord (nbits w : Nat) : Option Instr :=
  if w % 2 ^ nbits < 2 ^ 32 then
    match decode (BitVec.ofNat 32 (w % 2 ^ nbits)) with
    | .command i => some i
    | .reserved _ => none
  else none

end Sys2Proof
end

