-- ==== Sys2Proof/Config.lean ====
section
/-! DEFINITION. What an implementation of the block fixes: the constants of spec/00_scope.md R5, the open
parameters of R6 as one record, and the free values, which have no body. -/

namespace Sys2Proof

/-- `COMMA0` (R5, R83). -/
def comma0 : Symbol := 0x0FA

/-- `COMMA1`, the complement of `COMMA0` in 10 bits (R5, R83). -/
def comma1 : Symbol := 0x305

/-- `CRC_INIT` (R5). -/
def crcInit : Word := 0xFFFFFFFF

/-- `CRC_XOROUT` (R5). -/
def crcXorOut : Word := 0xFFFFFFFF

/-- `CRC_BYTE_ORDER` (R6, R175). -/
inductive CrcByteOrder where
  | msbFirst
  | lsbFirst
deriving DecidableEq, Repr, Inhabited

/-- `HOST_BYTE_ORDER` (R6, R52): no rule reads it. -/
inductive HostByteOrder where
  | little
  | big
deriving DecidableEq, Repr, Inhabited

/-- The parameters the source leaves open, each an argument of the model (R6, X10). The bound on `bufWords` is
R6's constraint; the constraints on the tables are predicates of Sys2Proof/Safety.lean (log 19). -/
structure Params where
  /-- `GF_ALPHA`, the antilog table (R101). -/
  gfAlpha : Vector Byte 256
  /-- `GF_INDEX`, the log table (R101). -/
  gfIndex : Vector Byte 256
  /-- `RS_GEN`, coefficient `k` of the generator polynomial at index `k` (R102). -/
  rsGen : Vector Byte 33
  /-- `ENC_TABLE[state][byte]` (R81, R121). -/
  encTable : Vector (Vector Entry 256) 2
  /-- `CRC_POLY`, reflected form (R171). -/
  crcPoly : Word
  /-- `CRC_BYTE_ORDER` (R175). -/
  crcByteOrder : CrcByteOrder
  /-- `BUF_WORDS`, words in one buffer (R50, R56). -/
  bufWords : Nat
  /-- `RD_RESET` (R34). -/
  rdReset : Bool
  /-- `HOST_BYTE_ORDER`, read by no rule (R52). -/
  hostByteOrder : HostByteOrder
  /-- R6: 1 <= `BUF_WORDS`. -/
  bufWords_pos : 1 ≤ bufWords
  /-- R6: `BUF_WORDS` <= 21845, so that 3 x `BUF_WORDS` fits 16 bits (R7). -/
  bufWords_le : bufWords ≤ 21845
deriving DecidableEq, Repr

/-- FREE VALUE (log 3): one less than the `BUF_WORDS` of the machine that `State.reset` describes (R6: OPEN). -/
opaque Config.bufWordsLessOne : Fin 21845

/-- FREE VALUE (log 4): the `HOST_BYTE_ORDER` of the machine that `State.reset` describes (R6: OPEN). -/
opaque Config.hostByteOrder : HostByteOrder

/-- FREE VALUE (log 6): what word `w` of buffer `b` holds in the session numbered `session` until something writes
it (R22, X3: "an arbitrary 32-bit value"). -/
opaque Config.unwrittenWord : Nat → Bool → Nat → Word

/-- FREE VALUE (log 11): what the n-th racy outside read returns (R58, X4: "any value per word"). -/
opaque Config.racyRead : Nat → Word

end Sys2Proof
end

