-- ==== Sys2Proof/Machine/State.lean ====
section
/-! DEFINITION. The state of the coder block as plain data: every register of spec/10_state.md R20 to R31, the buffer
memory, and the model's own fields (the build parameters, the ports, two counters that name free values). -/

namespace Sys2Proof.Machine

/-- `PHASE` (R27). -/
inductive Phase where
  | idle
  | inFrame
deriving DecidableEq, Repr

/-- The bit of `PHASE` (R27). -/
def Phase.bit : Phase → Bool
  | .idle => false
  | .inFrame => true

/-- `CAUSE` (R30, R211). The codes 4 to 7 are never written (X11), so they have no constructor (log 18). -/
inductive Cause where
  | none
  | illegal
  | seq
  | cap
deriving DecidableEq, Repr

/-- The 3-bit code of a cause (R211). -/
def Cause.code : Cause → BitVec 3
  | .none => 0
  | .illegal => 1
  | .seq => 2
  | .cap => 3

/-- A word that has been written: its index in its buffer and its value. The word is the smallest unit the spec's
memory has (R50, R52; log 5). -/
abbrev WordCell := Nat × Word

/-- The written words of `BUF[0]` and `BUF[1]`, two separate arrays (R22, R50), each list with strictly rising
indices (`Memory.wf` of Ops). A word not listed has not been written in this session (log 6). -/
structure Memory where
  buf0 : List WordCell
  buf1 : List WordCell
deriving DecidableEq, Repr

/-- What the outside world can drive at the ports (R78; logs 7, 10, 11). -/
inductive Input where
  /-- The host issues a command word (`cmd_valid`, `cmd`). -/
  | command (w : Word)
  /-- The host asserts `rst` (R240). -/
  | reset
  /-- The drainer reads a word (`xrd_b`, `xrd_w[14:0]`). -/
  | outsideRead (b : Bool) (w : BitVec 15)
deriving DecidableEq, Repr

/-- What the ports show after a step (R77, R78; log 9). -/
inductive Output where
  /-- No `rsp_valid` and no read data. -/
  | silent
  /-- `rsp_valid` with `rsp` and `flt`. -/
  | response (rsp : Word) (flt : Bool)
  /-- `xrd_data`. -/
  | readData (v : Word)
deriving DecidableEq, Repr

/-- The machine. The fields from `p` to `fcmd` are the spec's state; the others are the model's own. -/
structure State where
  /-- MODEL's own: the parameters of R6, which no step writes (R33; log 1). -/
  params : Params
  /-- `P[l][j]` (R20). -/
  p : Vector Accumulator 3
  /-- `RD` (R21). -/
  rd : Bool
  /-- `BUF[b][w]` (R22). -/
  mem : Memory
  /-- `CRC` (R23). -/
  crc : Word
  /-- `BIDX` (R25). -/
  bidx : Index
  /-- `SIDX` (R26). -/
  sidx : Index
  /-- `PHASE` (R27). -/
  phase : Phase
  /-- `CURBUF` (R28). -/
  curbuf : Bool
  /-- `FAULT` (R29). -/
  fault : Bool
  /-- `CAUSE` (R30). -/
  cause : Cause
  /-- `FCMD` (R31). -/
  fcmd : Word
  /-- MODEL's own: what the outside world drives next, oldest first (R78; log 7). -/
  inputs : List Input
  /-- MODEL's own: what the last step put out (R77; log 9). -/
  out : Output
  /-- MODEL's own: how often the block has been reset; it names the arbitrary buffer contents (log 6). -/
  session : Nat
  /-- MODEL's own: how many free values racy outside reads have taken (log 11). -/
  draws : Nat
deriving DecidableEq, Repr

/-- A stop of the MODEL. The spec's own `Fault(c)` is no stop: it is a next state with `FAULT` = 1 (R213; log 13). -/
inductive Fault where
  /-- Raised by `outsideRead` for a word index at or past `BUF_WORDS`, which does not exist (R11, R50). Safe: the model
  stops where the spec gives no effect (log 12). -/
  | noSuchWord (b : Bool) (w : Nat)
deriving DecidableEq, Repr

/-- Why a step has no meaning. -/
inductive Refusal where
  /-- Raised by an arm of `exec` whose instruction has no meaning yet: no arm does. Safe: the model stops. -/
  | notModelled (mnemonic : String)
deriving DecidableEq, Repr

/-- The machine with parameters `params` right after the reset that begins session number `session`: R34's values;
no buffer word written in this session (R34: unspecified); nothing at the ports (logs 6, 7, 9, 11). -/
def State.resetWith (params : Params) (session : Nat) : State where
  params := params
  p := Vector.replicate 3 zeroAccumulator
  rd := params.rdReset
  mem := ⟨[], []⟩
  crc := 0xFFFFFFFF
  bidx := 0
  sidx := 0
  phase := .idle
  curbuf := false
  fault := false
  cause := .none
  fcmd := 0
  inputs := []
  out := .silent
  session := session
  draws := 0

/-- The machine right after reset (R34), built as `builtParams` says (logs 2 to 4). -/
def State.reset : State := State.resetWith builtParams 0

end Sys2Proof.Machine
end

