-- ==== Sys2Proof/Machine/Flags.lean ====
section
/-! DEFINITION. The block's only condition flag, the running disparity `RD`: the two encode functions that compute its
next value with the symbol (spec/41_line_8b10b.md R120 to R123), and the status word that shows it
(spec/10_state.md R32). -/

namespace Sys2Proof.Machine

/-- What an encode function returns: the symbol and the next `RD` (R120). -/
structure Coded where
  symbol : Symbol
  next : Bool
deriving DecidableEq, Repr

/-- `ENC_TABLE[s][b]` (R81). -/
def encEntry (params : Params) (s : Bool) (b : Byte) : Entry :=
  (params.encTable[s.toNat]'(Bool.toNat_lt s))[b.toNat]'b.isLt

/-- `enc_data(s, b)` (R121). -/
def encData (params : Params) (s : Bool) (b : Byte) : Coded where
  symbol := (encEntry params s b).extractLsb' 0 10
  next := (encEntry params s b).getLsbD 10

/-- `enc_sync(s)` (R122). -/
def encSync (s : Bool) : Coded where
  symbol := if s then comma1 else comma0
  next := !s

/-- `STATUS`, the view of R32 and R200: `FAULT ++ CAUSE ++ PHASE ++ RD ++ CURBUF ++ 0b000000000 ++ SIDX`. -/
def statusWord (s : State) : Word :=
  BitVec.ofBool s.fault ++ s.cause.code ++ BitVec.ofBool s.phase.bit ++ BitVec.ofBool s.rd ++
    BitVec.ofBool s.curbuf ++ 0#9 ++ s.sidx

end Sys2Proof.Machine
end

