-- ==== Sys2Proof/Machine/Operands.lean ====
section
/-! DEFINITION. What a command's operands name: an accumulator, a symbol's place in the buffers, the capacity
(spec/20_memory.md R50, R51, R54; spec/40_rs_parity.md R106; spec/43_frame_pipeline.md R175), and the arithmetic on
bytes: GF(256) (spec/40_rs_parity.md R100 to R103) and the CRC-32 (spec/43_frame_pipeline.md R171). -/

namespace Sys2Proof.Machine

/-- The lane of byte number `n`, `n mod 3` (R106, R173); also the lane a `LANE` field of 0 to 2 names (R70). -/
def laneOf (n : Nat) : Lane := ⟨n % 3, Nat.mod_lt n (by decide)⟩

/-- The number of symbols a buffer holds, 3 x `BUF_WORDS` (R50, R54). -/
def capacity (params : Params) : Nat := 3 * params.bufWords

/-- The word that holds symbol `i` (R51). -/
def wordOfIndex (i : Nat) : Nat := i / 3

/-- The lowest bit of symbol `i` in its word: 0, 10 or 20 (R51). -/
def offsetOfIndex (i : Nat) : Nat := 10 * (i % 3)

/-- The byte-indexed entry of a 256-entry table. -/
def tableEntry (t : Vector Byte 256) (x : Byte) : Byte := t[x.toNat]'x.isLt

/-- The antilog of a natural number taken mod 255 (R102). -/
def antilog (params : Params) (n : Nat) : Byte :=
  params.gfAlpha[n % 255]'(Nat.lt_trans (Nat.mod_lt n (by decide)) (by decide))

/-- `gf_mul(x, y)` (R102): the zero test comes first, the sum of logs is a natural number. -/
def gfMul (params : Params) (x y : Byte) : Byte :=
  if x = 0 ∨ y = 0 then 0
  else antilog params ((tableEntry params.gfIndex x).toNat + (tableEntry params.gfIndex y).toNat)

/-- Byte `j` of `rs_update(A, c)`, `fb` being `c xor A[0]` (R103). -/
def rsUpdateByte (params : Params) (A : Accumulator) (fb : Byte) (j : Fin 32) : Byte :=
  if h : j.val < 31 then A[j.val + 1] ^^^ gfMul params fb (params.rsGen[31 - j.val])
  else gfMul params fb params.rsGen[0]

/-- `rs_update(A, c)` (R103): all 32 bytes from the old `A`. -/
def rsUpdate (params : Params) (A : Accumulator) (c : Byte) : Accumulator :=
  Vector.ofFn (rsUpdateByte params A (c ^^^ A[0]))

/-- One of the eight right shifts of `crc_step` (R171). -/
def crcShift (poly t : Word) : Word := if t.getLsbD 0 then (t >>> 1) ^^^ poly else t >>> 1

/-- `n` right shifts of `crc_step` (R171). -/
def crcShifts (poly : Word) : Nat → Word → Word
  | 0, t => t
  | n + 1, t => crcShifts poly n (crcShift poly t)

/-- `crc_step(c, b)` (R171). -/
def crcStep (params : Params) (c : Word) (b : Byte) : Word := crcShifts params.crcPoly 8 (c ^^^ b.setWidth 32)

/-- The four CRC bytes in the order they are pushed, `v` being the CRC after its final XOR (R175). -/
def crcBytes (params : Params) (v : Word) : List Byte :=
  match params.crcByteOrder with
  | .msbFirst => [v.extractLsb' 24 8, v.extractLsb' 16 8, v.extractLsb' 8 8, v.extractLsb' 0 8]
  | .lsbFirst => [v.extractLsb' 0 8, v.extractLsb' 8 8, v.extractLsb' 16 8, v.extractLsb' 24 8]

/-- The 96 parity bytes in the order they are sent: position by position, in each position lane 0, 1, 2 (R176). -/
def parityOrder (p : Vector Accumulator 3) : List Byte :=
  (List.finRange 32).flatMap fun i => [p[0][i], p[1][i], p[2][i]]

/-- What RD_STATUS selects (R200). -/
def statusSelect (sel : BitVec 2) (status crc fcmd : Word) (bidx : Index) : Word :=
  match sel.toNat with
  | 0 => status
  | 1 => crc
  | 2 => bidx.setWidth 32
  | _ => fcmd

end Sys2Proof.Machine
end

