-- ==== Sys2Proof/Machine/Ops.lean ====
section
/-! DEFINITION. The named operations over memory, registers and ports: the buffer words, the symbol packer
(spec/42_symbol_packer.md R150, R151), the shared steps of the frame pipeline (spec/43_frame_pipeline.md R173), the
response, the fault and the order of checks (spec/60_exceptions.md R212 to R214), reset (spec/70_reset_and_hazards.md
R240) and the outside read (spec/20_memory.md R58). -/

namespace Sys2Proof.Machine

/-! ### Buffer words -/

/-- The value listed for word `w`, if any. -/
def lookupWord : List WordCell → Nat → Option Word
  | [], _ => none
  | c :: rest, w => if c.1 = w then some c.2 else lookupWord rest w

/-- The list with word `w` set to `v`, indices kept strictly rising. -/
def insertWord : List WordCell → Nat → Word → List WordCell
  | [], w, v => [(w, v)]
  | c :: rest, w, v =>
    if w < c.1 then (w, v) :: c :: rest
    else if w = c.1 then (w, v) :: rest
    else c :: insertWord rest w v

/-- One buffer's list is in canonical form: indices strictly rising and below `n`. -/
abbrev risingBelow (n : Nat) (l : List WordCell) : Prop :=
  l.Pairwise (fun c d => c.1 < d.1) ∧ ∀ c ∈ l, c.1 < n

/-- The canonical form of the memory of a block with `n` words a buffer (R50; log 5). What an unlisted word reads as
is a free value, so no listed entry can be left out for being equal to it (log 6). -/
abbrev Memory.wf (n : Nat) (m : Memory) : Prop := risingBelow n m.buf0 ∧ risingBelow n m.buf1

/-- The written words of buffer `b`. -/
def Memory.buffer (m : Memory) (b : Bool) : List WordCell := if b then m.buf1 else m.buf0

/-- The memory after word `w` of buffer `b` is set to `v`. -/
def Memory.write (m : Memory) (b : Bool) (w : Nat) (v : Word) : Memory :=
  if b then ⟨m.buf0, insertWord m.buf1 w v⟩ else ⟨insertWord m.buf0 w v, m.buf1⟩

/-- `MemRead(b, w)` (R11). What an unwritten word reads as is this definition's free value (R22, X3; log 6). -/
def memRead (s : State) (b : Bool) (w : Nat) : Word :=
  (lookupWord (s.mem.buffer b) w).getD (Config.unwrittenWord s.session b w)

/-- `MemWrite(b, w, v)` (R11). -/
def memWrite (b : Bool) (w : Nat) (v : Word) (s : State) : State := { s with mem := s.mem.write b w v }

/-! ### Symbols -/

/-- What `put_symbol` takes as the old content of the word: 0 when it starts the word, else what the word holds (R150). -/
def putBase (s : State) (b : Bool) (i : Nat) : Word := if i % 3 = 0 then 0 else memRead s b (wordOfIndex i)

/-- The word `put_symbol` writes (R150). -/
def putValue (s : State) (b : Bool) (i : Nat) (v : Symbol) : Word :=
  putBase s b i ||| (v.setWidth 32 <<< offsetOfIndex i)

/-- `put_symbol(b, i, v)` (R150). -/
def putSymbol (b : Bool) (i : Nat) (v : Symbol) (s : State) : State :=
  memWrite b (wordOfIndex i) (putValue s b i v) s

/-- `get_symbol(b, i)` (R151): the low 10 bits of the shifted word. -/
def getSymbol (s : State) (b : Bool) (i : Nat) : Symbol :=
  (memRead s b (wordOfIndex i) >>> offsetOfIndex i).setWidth 10

/-! ### The shared steps of the pipeline -/

/-- `P[l] <- A` (R10). -/
def setLane (l : Lane) (A : Accumulator) (s : State) : State := { s with p := s.p.set l A }

/-- `P[l] <- rs_update(P[l], c)` (R108, R173). -/
def updateLane (l : Lane) (c : Byte) (s : State) : State := setLane l (rsUpdate s.params s.p[l] c) s

/-- `for l in 0..2: for j in 0..31: P[l][j] <- 0x00` (R107, R172). -/
def clearLanes (s : State) : State := { s with p := Vector.replicate 3 zeroAccumulator }

/-- `emit_symbol(y)` (R173). -/
def emitSymbol (y : Symbol) (s : State) : State :=
  { putSymbol s.curbuf s.sidx.toNat y s with sidx := s.sidx + 1 }

/-- `RD <- n; emit_symbol(y)` for what an encode function returned (R173, R176). -/
def emitCoded (c : Coded) (s : State) : State := emitSymbol c.symbol { s with rd := c.next }

/-- Encode a data byte under `RD` and append its symbol (R176). -/
def emitData (b : Byte) (s : State) : State := emitCoded (encData s.params s.rd b) s

/-- Encode the sync sentinel under `RD` and append the comma (R172, R176). -/
def emitSync (s : State) : State := emitCoded (encSync s.rd) s

/-- `push_byte(b)` (R173), without its result, which is `(encData s.params s.rd b).symbol`. -/
def pushByte (b : Byte) (s : State) : State :=
  let s1 := emitData b (updateLane (laneOf s.bidx.toNat) b s)
  { s1 with bidx := s1.bidx + 1 }

/-- `push_byte` for each byte in order. -/
def pushBytes : List Byte → State → State
  | [], s => s
  | b :: rest, s => pushBytes rest (pushByte b s)

/-- Encode and append each byte in order, no accumulator being touched (R176). -/
def emitBytes : List Byte → State → State
  | [], s => s
  | b :: rest, s => emitBytes rest (emitData b s)

/-! ### Response, fault and the order of checks -/

/-- The response of a command that executed: `rsp`, and `flt` the value of `FAULT` (R77). -/
def respond (rsp : Word) (s : State) : State := { s with out := .response rsp s.fault }

/-- TAKING THE EXCEPTION: `raise Fault(c)` for the command word `w` (R213). Nothing else changes and control goes
nowhere; there is no return from it but reset (R215). -/
def raiseFault (c : Cause) (w : Word) (s : State) : State :=
  { s with fault := true, cause := c, fcmd := w, out := .response 0 true }

/-- What a word other than RD_STATUS does while `FAULT` = 1: nothing, with `rsp` = 0 and `flt` = 1 (R214). -/
def ignoreCommand (s : State) : State := { s with out := .response 0 true }

/-- Checks (2) to (4) of R212 in their order: the cause a command is turned away with, if any. -/
def turnedAway (reserved outOfPhase overCapacity : Bool) : Option Cause :=
  if reserved then some .illegal
  else if outOfPhase then some .seq
  else if overCapacity then some .cap
  else none

/-- R212 for a command word `w` that is not RD_STATUS: (1) ignored while `FAULT` = 1, (2) to (4) the fault of the first
check that fails, (5) else the state `effect` its rule gives. -/
def runChecked (w : Word) (why : Option Cause) (effect s : State) : State :=
  if s.fault then ignoreCommand s
  else match why with
    | some c => raiseFault c w s
    | none => effect

/-- What a reserved word does (R75, R214, R217). -/
def reservedWord (w : Word) (s : State) : State := runChecked w (some .illegal) s s

/-- `PHASE` = `IN_FRAME` (R27). -/
def State.inFrame (s : State) : Bool := s.phase == .inFrame

/-- `PHASE` = `IDLE` (R27). -/
def State.isIdle (s : State) : Bool := s.phase == .idle

/-- `IDX >= 3 x BUF_WORDS`, or the same of `SIDX` (R219). -/
def State.pastEnd (s : State) (i : Index) : Bool := decide (capacity s.params ≤ i.toNat)

/-- `SIDX + 100 + LAST > 3 x BUF_WORDS`, as natural numbers (R219). -/
def State.tailTooLong (s : State) (last : Bool) : Bool :=
  decide (capacity s.params < s.sidx.toNat + 100 + last.toNat)

/-! ### Reset, the ports and the outside read -/

/-- The input `rst` (R240): every register takes R34's value and the buffer contents are unspecified again, so a new
session begins (R243). The parameters stay (R33), and so does what the outside world drives next (log 10). -/
def restart (s : State) : State :=
  { State.resetWith s.params (s.session + 1) with inputs := s.inputs, draws := s.draws }

/-- A step with nothing at the ports: the block is idle and keeps all state (R227; log 8). -/
def idleStep (s : State) : State := { s with out := .silent }

/-- An outside read of this buffer races with the frame being written (R58). -/
def racy (s : State) (b : Bool) : Bool := s.inFrame && b == s.curbuf

/-- The drainer reads `BUF[b][w]` (R58, R78): the word when the read is defined, a free value when it races (log 11);
a word that does not exist stops the model (log 12). -/
def outsideRead (b : Bool) (w : Nat) (s : State) : Host.Outcome State Fault Refusal :=
  if s.params.bufWords ≤ w then .fault (.noSuchWord b w)
  else if racy s b then .next { s with out := .readData (Config.racyRead s.draws), draws := s.draws + 1 }
  else .next { s with out := .readData (memRead s b w) }

/-- The oldest thing at the ports, and the state without it (R78). -/
def takeInput (s : State) : Option (Input × State) :=
  match s.inputs with
  | [] => none
  | i :: rest => some (i, { s with inputs := rest })

end Sys2Proof.Machine
end

