-- ==== Sys2Proof/Machine/Frame.lean ====
section
/-! DEFINITION. The frame family: FRAME_BEGIN, FRAME_DATA, FRAME_END (spec/43_frame_pipeline.md R172, R174, R176). -/

namespace Sys2Proof.Machine

/-- The effect of FRAME_BEGIN on the registers and the buffer (R172). -/
def beginFrame (b ls : Bool) (s : State) : State :=
  let s1 := { clearLanes s with bidx := 0, sidx := 0, crc := crcInit, curbuf := b, phase := .inFrame }
  if ls then emitSync s1 else s1

/-- FRAME_BEGIN b, ls (R172). -/
def execFrameBegin (b ls : Bool) (s : State) : Host.Outcome State Fault Refusal :=
  .next (runChecked (encode (.frameBegin b ls)) (turnedAway false s.inFrame false) (respond 0 (beginFrame b ls s)) s)

/-- The effect of FRAME_DATA on the registers and the buffer (R174). -/
def dataByte (data8 : Byte) (s : State) : State :=
  pushByte data8 { s with crc := crcStep s.params s.crc data8 }

/-- FRAME_DATA byte (R174): the response is the symbol that `push_byte` put. -/
def execFrameData (data8 : Byte) (s : State) : Host.Outcome State Fault Refusal :=
  .next (runChecked (encode (.frameData data8)) (turnedAway false s.isIdle (s.pastEnd s.sidx))
    (respond ((encData s.params s.rd data8).symbol.setWidth 32) (dataByte data8 s)) s)

/-- The parity the accumulators hold, then the trailing comma if `LAST` = 1 (R176). The loop of R176 changes no
accumulator, so the 96 bytes are those that stand in `P` when it starts. -/
def appendTail (last : Bool) (s : State) : State :=
  let s1 := emitBytes (parityOrder s.p) s
  if last then emitSync s1 else s1

/-- The CRC bytes are pushed, the CRC register not being updated (R175, R176). -/
def pushCrc (s : State) : State := pushBytes (crcBytes s.params (s.crc ^^^ crcXorOut)) s

/-- The effect of FRAME_END on the registers and the buffer (R176). -/
def endFrame (last : Bool) (s : State) : State := { appendTail last (pushCrc s) with phase := .idle }

/-- FRAME_END last (R176): the response is the frame's length in symbols. -/
def execFrameEnd (last : Bool) (s : State) : Host.Outcome State Fault Refusal :=
  let t := endFrame last s
  .next (runChecked (encode (.frameEnd last)) (turnedAway false s.isIdle (s.tailTooLong last))
    (respond (t.sidx.setWidth 32) t) s)

end Sys2Proof.Machine
end

