-- ==== Sys2Proof/Machine/LineCode.lean ====
section
/-! DEFINITION. The line-coder family: ENC_BYTE, ENC_SYNC (spec/41_line_8b10b.md R133, R134). The symbol is returned,
not stored. -/

namespace Sys2Proof.Machine

/-- `RD <- n; rsp <- zext_32(y)` for what an encode function returned (R133, R134). -/
def respondCoded (c : Coded) (s : State) : State := respond (c.symbol.setWidth 32) { s with rd := c.next }

/-- ENC_BYTE byte (R133). -/
def execEncByte (data8 : Byte) (s : State) : Host.Outcome State Fault Refusal :=
  .next (runChecked (encode (.encByte data8)) (turnedAway false s.inFrame false)
    (respondCoded (encData s.params s.rd data8) s) s)

/-- ENC_SYNC (R134). -/
def execEncSync (s : State) : Host.Outcome State Fault Refusal :=
  .next (runChecked (encode .encSync) (turnedAway false s.inFrame false) (respondCoded (encSync s.rd) s) s)

end Sys2Proof.Machine
end

