-- ==== Sys2Proof/Machine/Packer.lean ====
section
/-! DEFINITION. The packer family: PUT_SYM, GET_SYM (spec/42_symbol_packer.md R154, R155). -/

namespace Sys2Proof.Machine

/-- PUT_SYM b, idx, sym (R154). -/
def execPutSym (b : Bool) (idx : Index) (sym : Symbol) (s : State) : Host.Outcome State Fault Refusal :=
  .next (runChecked (encode (.putSym b idx sym)) (turnedAway false s.inFrame (s.pastEnd idx))
    (respond 0 (putSymbol b idx.toNat sym s)) s)

/-- GET_SYM b, idx (R155): allowed in both phases. A word never written returns 10 bits of its free value (X3; log 6). -/
def execGetSym (b : Bool) (idx : Index) (s : State) : Host.Outcome State Fault Refusal :=
  .next (runChecked (encode (.getSym b idx)) (turnedAway false false (s.pastEnd idx))
    (respond ((getSymbol s b idx.toNat).setWidth 32) s) s)

end Sys2Proof.Machine
end

