-- ==== Sys2Proof/Machine/RsParity.lean ====
section
/-! DEFINITION. The Reed-Solomon family: RS_CLEAR, RS_UPDATE, RS_READ (spec/40_rs_parity.md R107 to R109). -/

namespace Sys2Proof.Machine

/-- RS_CLEAR (R107). -/
def execRsClear (s : State) : Host.Outcome State Fault Refusal :=
  .next (runChecked (encode .rsClear) (turnedAway false s.inFrame false) (respond 0 (clearLanes s)) s)

/-- RS_UPDATE lane, byte (R108). `LANE` = 3 is `Fault(ILLEGAL)` (R217; log 14). -/
def execRsUpdate (lane : BitVec 2) (data8 : Byte) (s : State) : Host.Outcome State Fault Refusal :=
  .next (runChecked (encode (.rsUpdate lane data8)) (turnedAway (lane == 3) s.inFrame false)
    (respond 0 (updateLane (laneOf lane.toNat) data8 s)) s)

/-- RS_READ lane, pos (R109): allowed in both phases. `LANE` = 3 is `Fault(ILLEGAL)` (R217; log 14). -/
def execRsRead (lane : BitVec 2) (pos : BitVec 5) (s : State) : Host.Outcome State Fault Refusal :=
  .next (runChecked (encode (.rsRead lane pos)) (turnedAway (lane == 3) false false)
    (respond ((s.p[laneOf lane.toNat][pos.toNat]'pos.isLt).setWidth 32) s) s)

end Sys2Proof.Machine
end

