-- ==== Sys2Proof/Machine/Status.lean ====
section
/-! DEFINITION. Status access: RD_STATUS (spec/44_status.md R200), the one command that still executes while
`FAULT` = 1 (spec/60_exceptions.md R214). There is no other system command (R201). -/

namespace Sys2Proof.Machine

/-- RD_STATUS sel (R200): allowed in both phases and while `FAULT` = 1, when `flt` = 1. -/
def execRdStatus (sel : BitVec 2) (s : State) : Host.Outcome State Fault Refusal :=
  .next (respond (statusSelect sel (statusWord s) s.crc s.fcmd s.bidx) s)

end Sys2Proof.Machine
end

