-- ==== Sys2Proof/Machine/Dispatch.lean ====
section
/-! DEFINITION. The dispatch: one arm per command of spec/30_encoding.md R74, each one direct call of its meaning. -/

namespace Sys2Proof.Machine

def exec (i : Instr) (s : State) : Host.Outcome State Fault Refusal :=
  match i with
  | .rsClear => Sys2Proof.Machine.execRsClear s
  | .rsUpdate lane data8 => Sys2Proof.Machine.execRsUpdate lane data8 s
  | .rsRead lane pos => Sys2Proof.Machine.execRsRead lane pos s
  | .encByte data8 => Sys2Proof.Machine.execEncByte data8 s
  | .encSync => Sys2Proof.Machine.execEncSync s
  | .putSym b idx sym => Sys2Proof.Machine.execPutSym b idx sym s
  | .getSym b idx => Sys2Proof.Machine.execGetSym b idx s
  | .frameBegin b ls => Sys2Proof.Machine.execFrameBegin b ls s
  | .frameData data8 => Sys2Proof.Machine.execFrameData data8 s
  | .frameEnd last => Sys2Proof.Machine.execFrameEnd last s
  | .rdStatus sel => Sys2Proof.Machine.execRdStatus sel s

end Sys2Proof.Machine
end

