-- ==== Sys2Proof/Machine/Step.lean ====
section
/-! DEFINITION. One step: take the oldest thing at the ports and do it. A command is one step
(spec/20_memory.md R57, spec/70_reset_and_hazards.md R260). -/

namespace Sys2Proof.Machine

/-- What a command word does (R76, R212): a word that decodes runs its command, a reserved word faults (R75). -/
def runWord (w : Word) (s : State) : Host.Outcome State Fault Refusal :=
  match decode w with
  | .command i => exec i s
  | .reserved _ => .next (reservedWord w s)

/-- One step of the block (R57, R78, R240, R58). -/
def step (s : State) : Host.Outcome State Fault Refusal :=
  match takeInput s with
  | none => .next (idleStep s)
  | some (.command w, s1) => runWord w s1
  | some (.reset, s1) => .next (restart s1)
  | some (.outsideRead b w, s1) => outsideRead b w.toNat s1

/-- The state `s` with the command word `w mod 2^nbits` as the next thing at the command port: the block has no
instruction memory (R24, R60), so this is where a step takes its command from (log 7). -/
def State.withFetchWord (s : State) (nbits w : Nat) : State :=
  { s with inputs := .command (BitVec.ofNat 32 (w % 2 ^ nbits)) :: s.inputs }

end Sys2Proof.Machine
end

