-- ==== Sys2Proof/Machine/Assembler.lean ====
section
/-! DEFINITION. The assembler's operands and the two pseudo-instructions (spec/30_encoding.md R79, R80), on a line
already split into its mnemonic and its numbers (log 20). It carries no semantics. -/

namespace Sys2Proof.Machine

/-- The number as a one-bit flag, refused outside 0 and 1 (R79). -/
def oneBit (n : Nat) : Option Bool := if n = 0 then some false else if n = 1 then some true else none

/-- The number as a field of `width` bits, refused when it does not fit (R79). -/
def fieldOf (width n : Nat) : Option (BitVec width) := if n < 2 ^ width then some (BitVec.ofNat width n) else none

/-- The number as a `LANE` an assembler accepts, 0 to 2 (R79). -/
def laneField (n : Nat) : Option (BitVec 2) := if n < 3 then some (BitVec.ofNat 2 n) else none

/-- The command of one line of assembler, refused when an operand is outside its range (R79). -/
def assembleCommand (mnemonic : String) (operands : List Nat) : Option Instr :=
  match mnemonic, operands with
  | "RS_CLEAR", [] => some .rsClear
  | "RS_UPDATE", [lane, byte] => do return .rsUpdate (← laneField lane) (← fieldOf 8 byte)
  | "RS_READ", [lane, pos] => do return .rsRead (← laneField lane) (← fieldOf 5 pos)
  | "ENC_BYTE", [byte] => do return .encByte (← fieldOf 8 byte)
  | "ENC_SYNC", [] => some .encSync
  | "PUT_SYM", [b, idx, sym] => do return .putSym (← oneBit b) (← fieldOf 16 idx) (← fieldOf 10 sym)
  | "GET_SYM", [b, idx] => do return .getSym (← oneBit b) (← fieldOf 16 idx)
  | "FRAME_BEGIN", [b, ls] => do return .frameBegin (← oneBit b) (← oneBit ls)
  | "FRAME_DATA", [byte] => do return .frameData (← fieldOf 8 byte)
  | "FRAME_END", [last] => do return .frameEnd (← oneBit last)
  | "RD_STATUS", [sel] => do return .rdStatus (← fieldOf 2 sel)
  | _, _ => none

/-- `FRAME b, ls, last, b0, ..., bn-1` (R80): n + 2 commands. -/
def frameCommands (b ls last : Bool) (bytes : List Byte) : List Instr :=
  .frameBegin b ls :: bytes.map .frameData ++ [.frameEnd last]

/-- The words of one line of assembler, the pseudo-instructions `FRAME` and `.word` included (R79, R80). -/
def assemble (mnemonic : String) (operands : List Nat) : Option (List Word) :=
  match mnemonic, operands with
  | ".word", [v] => do return [← fieldOf 32 v]
  | "FRAME", b :: ls :: last :: bytes => do
    return (frameCommands (← oneBit b) (← oneBit ls) (← oneBit last) (← bytes.mapM (fieldOf 8))).map encode
  | _, _ => do return [encode (← assembleCommand mnemonic operands)]

end Sys2Proof.Machine
end

