-- ==== Sys2Proof/Safety.lean ====
section
/-! DEFINITION. The terms claims use: legal parameters (spec/40_rs_parity.md R101, R102; spec/41_line_8b10b.md R130 to
R132), the line code over a whole stream, the layout of a frame (spec/30_encoding.md R85, R86), the tables of which
command is allowed when and writes what (spec/60_exceptions.md R218, R219; spec/10_state.md R20 to R31), and the
invariants of spec/10_state.md R36. Nothing here is run by a step. -/

namespace Sys2Proof.Machine

/-! ### Legal parameters -/

/-- `GF_ALPHA[k]` for k in 0 to 254. -/
def alphaAt (params : Params) (k : Fin 255) : Byte := params.gfAlpha[k.val]

/-- Multiplication by the element 0x02 modulo the 9-bit field polynomial: shift left by one, and `xor` the polynomial
when bit 8 of the shifted value is set (R101 (e)). -/
def timesTwo (poly : BitVec 9) (x : Byte) : Byte :=
  let shifted : BitVec 9 := x.setWidth 9 <<< 1
  (if shifted.getLsbD 8 then shifted ^^^ poly else shifted).setWidth 8

/-- The product of two polynomials over GF(2), `a` of degree at most 4, bit k being the coefficient of x^k. -/
def carrylessProduct (a b : Nat) : Nat :=
  (List.range 5).foldl (fun acc k => if a.testBit k then acc ^^^ (b <<< k) else acc) 0

/-- The degree-8 polynomial is no product of two polynomials of degree at least 1. One of two such factors has degree
at most 4 and the other degree at most 7. -/
def irreducibleOverGf2 (poly : BitVec 9) : Prop :=
  ∀ a < 32, 2 ≤ a → ∀ b < 256, 2 ≤ b → carrylessProduct a b ≠ poly.toNat

/-- `poly` is the `FIELD_POLY` of the antilog table: R101 (e). -/
def isFieldPoly (params : Params) (poly : BitVec 9) : Prop :=
  poly.getLsbD 8 = true ∧ irreducibleOverGf2 poly ∧
    ∀ k : Fin 254, params.gfAlpha[k.val + 1] = timesTwo poly params.gfAlpha[k.val]

/-- The log and antilog tables are a legal pair: R101 (a) to (e). -/
structure LegalField (params : Params) : Prop where
  alpha_zero : params.gfAlpha[0] = 1
  alpha_nonzero : ∀ k : Fin 255, alphaAt params k ≠ 0
  alpha_once : ∀ j k : Fin 255, alphaAt params j = alphaAt params k → j = k
  alpha_last : params.gfAlpha[255] = 0
  index_alpha : ∀ k : Fin 255, (tableEntry params.gfIndex (alphaAt params k)).toNat = k.val
  index_zero : tableEntry params.gfIndex 0 = 255
  field_poly : ∃ poly, isFieldPoly params poly

/-- `RS_GEN` is monic of degree 32 with a non-zero constant coefficient (R102). -/
structure LegalGenerator (params : Params) : Prop where
  monic : params.rsGen[32] = 1
  constant : params.rsGen[0] ≠ 0

/-- Ones minus zeros of a symbol (R130). -/
def imbalance (y : Symbol) : Int := 2 * (onesIn 10 y : Int) - 10

/-- Every entry of the code table either is balanced and keeps the state, or leans away from the state it is used in
and moves to the other one: the property R128 gives `ENC_DEFAULT` and R130 derives the DC balance from. -/
def BalancedTable (params : Params) : Prop :=
  ∀ (s : Bool) (b : Byte),
    (imbalance (encData params s b).symbol = 0 ∧ (encData params s b).next = s) ∨
    (imbalance (encData params s b).symbol = (if s then -2 else 2) ∧ (encData params s b).next = !s)

/-- The constraints of R131 (a), (b) and R132 on the code table. -/
structure DecodableTable (params : Params) : Prop where
  injective : ∀ s b c, (encData params s b).symbol = (encData params s c).symbol → b = c
  consistent : ∀ s t b c, (encData params s b).symbol = (encData params t c).symbol → b = c
  comma_reserved : ∀ s b, (encData params s b).symbol ≠ comma0 ∧ (encData params s b).symbol ≠ comma1

/-! ### The field and the code word -/

/-- `n` multiplications by 0x02. -/
def timesTwoPower (poly : BitVec 9) : Nat → Byte → Byte
  | 0, x => x
  | n + 1, x => timesTwo poly (timesTwoPower poly n x)

/-- The product of two field elements as polynomials modulo the field polynomial: the sum of x times 0x02^k over the
bits k set in y. -/
def fieldProduct (poly : BitVec 9) (x y : Byte) : Byte :=
  (List.range 8).foldl (fun acc k => if y.getLsbD k then acc ^^^ timesTwoPower poly k x else acc) 0

/-- Sum of two polynomials over the field of equally many coefficients. -/
def polyAdd (a b : List Byte) : List Byte := List.zipWith (· ^^^ ·) a b

/-- The coefficients of the generator polynomial from the highest power down (R102). -/
def generatorDown (params : Params) : List Byte := params.rsGen.toList.reverse

/-- The product of a polynomial with the generator polynomial, coefficients from the highest power down: 32 more of
them than the other factor has (R105). -/
def timesGenerator (params : Params) : List Byte → List Byte
  | [] => List.replicate 32 0
  | c :: rest =>
    polyAdd ((generatorDown params).map (gfMul params c) ++ List.replicate rest.length 0)
      (0 :: timesGenerator params rest)

/-- What an accumulator holds after the bytes of a message in order, from zero (R105). -/
def accumulatorAfter (params : Params) (message : List Byte) : Accumulator :=
  message.foldl (rsUpdate params) zeroAccumulator

/-! ### The line code over a stream -/

/-- An input of the line encoder: a data byte or the sync sentinel (R120, R123). -/
inductive LineInput where
  | byte (b : Byte)
  | sync
deriving DecidableEq, Repr

/-- `enc_data` or `enc_sync` (R120). -/
def encodeOne (params : Params) (s : Bool) : LineInput → Coded
  | .byte b => encData params s b
  | .sync => encSync s

/-- The symbols of a sequence of inputs, from state `s` (R120). -/
def streamSymbols (params : Params) : Bool → List LineInput → List Symbol
  | _, [] => []
  | s, x :: rest => (encodeOne params s x).symbol :: streamSymbols params (encodeOne params s x).next rest

/-- The state after a sequence of inputs, from state `s` (R120). -/
def streamState (params : Params) : Bool → List LineInput → Bool
  | s, [] => s
  | s, x :: rest => streamState params (encodeOne params s x).next rest

/-- `dec(s, y)` (R131): the byte whose symbol in state `s` is `y`, and the next state; none if there is none. -/
def decodeSymbol (params : Params) (s : Bool) (y : Symbol) : Option (Byte × Bool) :=
  (((List.range 256).map (BitVec.ofNat 8)).find? fun b => (encData params s b).symbol == y).map
    fun b => (b, (encData params s b).next)

/-- A decoder that tracks the state as the encoder does, commas included (R131, R177). -/
def trackingDecode (params : Params) : Bool → List Symbol → Option (List LineInput)
  | _, [] => some []
  | s, y :: rest =>
    if y = (encSync s).symbol then (trackingDecode params (encSync s).next rest).map (.sync :: ·)
    else match decodeSymbol params s y with
      | some (b, n) => (trackingDecode params n rest).map (.byte b :: ·)
      | none => none

/-- The sum of ones minus zeros over the first `k` symbols (R130). -/
def runningImbalance (ys : List Symbol) (k : Nat) : Int := ((ys.take k).map imbalance).sum

/-! ### The layout of a frame -/

/-- The bytes of `bytes` that go to lane `l` when the first of them is byte number `first` of the frame (R106). -/
def laneBytes (l : Lane) (first : Nat) (bytes : List Byte) : List Byte :=
  ((bytes.zipIdx first).filter fun x => x.2 % 3 == l.val).map Prod.fst

/-- `CRC` after the data bytes, before the final XOR (R23, R171). -/
def frameCrc (params : Params) (data : List Byte) : Word := data.foldl (crcStep params) crcInit

/-- The bytes a frame protects: the data, then the four CRC bytes (R106, R176). -/
def protectedBytes (params : Params) (data : List Byte) : List Byte :=
  data ++ crcBytes params (frameCrc params data ^^^ crcXorOut)

/-- The parity of lane `l` over the given bytes of a frame (R106). -/
def laneParity (params : Params) (l : Lane) (bytes : List Byte) : Accumulator :=
  accumulatorAfter params (laneBytes l 0 bytes)

/-- One comma if the flag is set, else nothing (R85 (1), (5)). -/
def optionalComma (flag : Bool) : List LineInput := if flag then [.sync] else []

/-- The line inputs of a frame begun with `ls` after its data bytes so far (R85 (1), (2)). -/
def frameHead (ls : Bool) (data : List Byte) : List LineInput := optionalComma ls ++ data.map .byte

/-- The line inputs FRAME_END appends: CRC bytes, parity, optional comma (R85 (3) to (5)). -/
def frameTail (crc : List Byte) (p : Vector Accumulator 3) (last : Bool) : List LineInput :=
  crc.map .byte ++ (parityOrder p).map .byte ++ optionalComma last

/-- The accumulators of a finished frame (R106, R176). -/
def frameParity (params : Params) (data : List Byte) : Vector Accumulator 3 :=
  Vector.ofFn fun l => laneParity params l (protectedBytes params data)

/-- The line inputs of a whole frame, in index order (R85). -/
def frameInputs (params : Params) (ls : Bool) (data : List Byte) (last : Bool) : List LineInput :=
  frameHead ls data ++
    frameTail (crcBytes params (frameCrc params data ^^^ crcXorOut)) (frameParity params data) last

/-- Word `w` of a buffer that holds the symbols `ys` from index 0, unused slots and bits 31:30 being 0 (R84, R178). -/
def packedWord (ys : List Symbol) (w : Nat) : Word :=
  0#2 ++ ys.getD (3 * w + 2) 0 ++ ys.getD (3 * w + 1) 0 ++ ys.getD (3 * w) 0

/-! ### Which command may run when, and what it may write -/

/-- The table of R218. -/
def allowedIn : Instr → Phase → Bool
  | .rsClear, ph => ph == .idle
  | .rsUpdate _ _, ph => ph == .idle
  | .encByte _, ph => ph == .idle
  | .encSync, ph => ph == .idle
  | .putSym _ _ _, ph => ph == .idle
  | .frameBegin _ _, ph => ph == .idle
  | .frameData _, ph => ph == .inFrame
  | .frameEnd _, ph => ph == .inFrame
  | .rsRead _ _, _ => true
  | .getSym _ _, _ => true
  | .rdStatus _, _ => true

/-- The capacity check of R219 fails. -/
def overCapacity : Instr → State → Bool
  | .putSym _ idx _, s => decide (idx.toNat ≥ 3 * s.params.bufWords)
  | .getSym _ idx, s => decide (idx.toNat ≥ 3 * s.params.bufWords)
  | .frameData _, s => decide (s.sidx.toNat ≥ 3 * s.params.bufWords)
  | .frameEnd last, s => decide (s.sidx.toNat + 100 + last.toNat > 3 * s.params.bufWords)
  | _, _ => false

/-- The command is an RD_STATUS (R214). -/
def isRdStatus : Instr → Bool
  | .rdStatus _ => true
  | _ => false

/-- The state a `raise Fault(c)` for word `w` leaves (R213), in record form. -/
def faulted (c : Cause) (w : Word) (s : State) : State :=
  { s with fault := true, cause := c, fcmd := w, out := .response 0 true }

/-- The commands R20 names as writers of `P`. -/
def mayWriteP : Instr → Bool
  | .rsClear | .rsUpdate _ _ | .frameBegin _ _ | .frameData _ | .frameEnd _ => true
  | _ => false

/-- The commands R21 names as writers of `RD`. -/
def mayWriteRd : Instr → Bool
  | .encByte _ | .encSync | .frameBegin _ true | .frameData _ | .frameEnd _ => true
  | _ => false

/-- The commands R22 names as writers of `BUF`, with the buffer they write (R28, R154, R172). -/
def mayWriteBuffer (s : State) : Instr → Bool → Bool
  | .putSym b _ _, b' => b == b'
  | .frameBegin b true, b' => b == b'
  | .frameData _, b' => s.curbuf == b'
  | .frameEnd _, b' => s.curbuf == b'
  | _, _ => false

/-- The commands R23 names as writers of `CRC`. -/
def mayWriteCrc : Instr → Bool
  | .frameBegin _ _ | .frameData _ => true
  | _ => false

/-- The commands R25 and R26 name as writers of `BIDX` and `SIDX`. -/
def mayWriteIndices : Instr → Bool
  | .frameBegin _ _ | .frameData _ | .frameEnd _ => true
  | _ => false

/-- The registers of R20 to R31 and the memory are the same in both states. -/
def sameRegisters (s t : State) : Prop :=
  t.p = s.p ∧ t.rd = s.rd ∧ t.mem = s.mem ∧ t.crc = s.crc ∧ t.bidx = s.bidx ∧ t.sidx = s.sidx ∧ t.phase = s.phase ∧
    t.curbuf = s.curbuf ∧ t.fault = s.fault ∧ t.cause = s.cause ∧ t.fcmd = s.fcmd

/-! ### Invariants (R36) -/

/-- R36 (a) to (d), and the canonical form of the memory. -/
structure SequencingInvariant (s : State) : Prop where
  bytes_le_symbols : s.bidx.toNat ≤ s.sidx.toNat
  symbols_fit : s.sidx.toNat ≤ 3 * s.params.bufWords
  leading_sync : s.phase = .inFrame → s.sidx.toNat = s.bidx.toNat ∨ s.sidx.toNat = s.bidx.toNat + 1
  cause_fault : s.cause = .none ↔ s.fault = false
  fcmd_clear : s.fault = false → s.fcmd = 0
  memory_wf : s.mem.wf s.params.bufWords

/-- The registers and the current buffer hold exactly the frame begun with leading sync `ls` in line state `rd0` and
given the bytes `data` (R23, R25, R26, R36 (b) and (f), R85, R106). -/
structure FrameContent (s : State) (ls rd0 : Bool) (data : List Byte) : Prop where
  bytes : s.bidx.toNat = data.length
  symbols : s.sidx.toNat = ls.toNat + data.length
  fits : s.sidx.toNat ≤ 3 * s.params.bufWords
  crc : s.crc = frameCrc s.params data
  parity : ∀ l : Lane, s.p[l] = laneParity s.params l data
  disparity : s.rd = streamState s.params rd0 (frameHead ls data)
  words : ∀ w, 3 * w < s.sidx.toNat →
    memRead s s.curbuf w = packedWord (streamSymbols s.params rd0 (frameHead ls data)) w

/-- While a frame is in progress, the block holds that frame and nothing else. -/
def FrameInvariant (s : State) : Prop := s.phase = .inFrame → ∃ ls rd0 data, FrameContent s ls rd0 data

/-! ### Runs and assembler lines -/

/-- `n` steps, stopping at the first that is no next state. -/
def runSteps : Nat → State → Host.Outcome State Fault Refusal
  | 0, s => .next s
  | n + 1, s =>
    match step s with
    | .next t => runSteps n t
    | .fault f => .fault f
    | .refused r => .refused r

/-- The host issuing the words of these commands in order (R78). -/
def issued (commands : List Instr) : List Input := commands.map fun i => .command (encode i)

/-- The operands of a command as the assembler writes them, in the order of R79. -/
def operandsOf : Instr → List Nat
  | .rsClear => []
  | .rsUpdate lane data8 => [lane.toNat, data8.toNat]
  | .rsRead lane pos => [lane.toNat, pos.toNat]
  | .encByte data8 => [data8.toNat]
  | .encSync => []
  | .putSym b idx sym => [b.toNat, idx.toNat, sym.toNat]
  | .getSym b idx => [b.toNat, idx.toNat]
  | .frameBegin b ls => [b.toNat, ls.toNat]
  | .frameData data8 => [data8.toNat]
  | .frameEnd last => [last.toNat]
  | .rdStatus sel => [sel.toNat]

/-- A run of the block that has not gone wrong: no fault is recorded (R214). -/
def noFault (s : State) : Prop := s.fault = false

end Sys2Proof.Machine
end

