-- ==== Sys2Proof/Certificates/Slice0/Obligations.lean ====
section
/-! DEFINITION. The statements about the model, each from the rules its docstring cites. Nothing is proved here.
A statement about `exec` names the whole next state, so that its frame is part of it: `{ s with … }` lists every field
that changes; where a command stores to a buffer, the statement says what every word of both buffers reads as. -/

open Sys2Proof Sys2Proof.Machine

/-! ### Encoding -/

/-- R70, R71, R73: every well-formed command is what its own word decodes to, whatever its operands. -/
def Obligations.DecodeOfEncodeIsTheCommand : Prop :=
  ∀ i : Instr, WellFormed i → decode (encode i) = .command i

/-- R71, R76: a word that decodes is the word of its command, and the command is well-formed: no bit of a command word
is ignored, so `FCMD` is the word that came over the port (log 15). -/
def Obligations.EncodeOfDecodeIsTheWord : Prop :=
  ∀ (w : Word) (i : Instr), decode w = .command i → encode i = w ∧ WellFormed i

/-- R74: the opcode map, row by row; a word is the command of a row exactly when `cmd and mask` = `match`; at most one
row matches any word. -/
def Obligations.CommandOfARowExactlyWhenMaskAndMatch : Prop :=
  opcodeMap =
    [⟨"RS_CLEAR", 0x10000000, 0xFFFFFFFF⟩, ⟨"RS_UPDATE", 0x20000000, 0xFFFFFC00⟩, ⟨"RS_READ", 0x30000000, 0xFFFFFCE0⟩,
     ⟨"ENC_BYTE", 0x40000000, 0xFFFFFF00⟩, ⟨"ENC_SYNC", 0x50000000, 0xFFFFFFFF⟩, ⟨"PUT_SYM", 0x60000000, 0xF4000000⟩,
     ⟨"GET_SYM", 0x70000000, 0xF40003FF⟩, ⟨"FRAME_BEGIN", 0x80000000, 0xF3FFFFFF⟩,
     ⟨"FRAME_DATA", 0x90000000, 0xFFFFFF00⟩, ⟨"FRAME_END", 0xA0000000, 0xFBFFFFFF⟩,
     ⟨"RD_STATUS", 0xB0000000, 0xFFFFFFFC⟩] ∧
  (∀ r ∈ opcodeMap, ∀ w : Word,
    w &&& r.mask = r.pattern ↔ ∃ i, readRow w = .command i ∧ i.mnemonic = r.mnemonic) ∧
  (∀ r ∈ opcodeMap, ∀ r' ∈ opcodeMap, ∀ w : Word, w &&& r.mask = r.pattern → w &&& r'.mask = r'.pattern → r = r') ∧
  (∀ (w : Word) (i : Instr), readRow w = .command i → ∃ r ∈ opcodeMap, r.mnemonic = i.mnemonic)

/-- R75, R217: the reserved words are exactly (a) those with `OP` 0x0 or 0xC to 0xF, (b) those with `OP` 0x1 to 0xB and a
must-be-zero bit of the row set, (c) RS_UPDATE and RS_READ with `LANE` = 3; the all-zero and the all-ones word are
among them; while `FAULT` = 0 each raises `Fault(ILLEGAL)`, in either phase, and has no other effect. -/
def Obligations.ReservedWordsInFullRaiseIllegal : Prop :=
  (∀ w : Word, (∃ why, decode w = .reserved why) ↔
    (w.extractLsb' 28 4 = 0x0 ∨ 0xC ≤ w.extractLsb' 28 4) ∨
    (∃ r ∈ opcodeMap, w.extractLsb' 28 4 = r.pattern.extractLsb' 28 4 ∧ w &&& r.mask ≠ r.pattern) ∨
    ((w &&& 0xFFFFFC00 = 0x20000000 ∨ w &&& 0xFFFFFCE0 = 0x30000000) ∧ w.extractLsb' 8 2 = 3)) ∧
  (∃ why, decode 0x00000000 = .reserved why) ∧ (∃ why, decode 0xFFFFFFFF = .reserved why) ∧
  (∀ (w : Word) (why : Reserved) (rest : List Input) (s : State),
    decode w = .reserved why → s.inputs = .command w :: rest → s.fault = false →
    step s = .next { s with
      inputs := rest, fault := true, cause := .illegal, fcmd := w, out := .response 0 true })

/-- A sanity statement: words written out from the formats of R71 decode to their commands (95_test_vectors.md). -/
def Obligations.SampleWordsDecode : Prop :=
  decode 0x20000100 = .command (.rsUpdate 1 0x00) ∧ decode 0x3000021F = .command (.rsRead 2 31) ∧
  decode 0x400000FF = .command (.encByte 0xFF) ∧ decode 0x680000FA = .command (.putSym true 0 0x0FA) ∧
  decode 0x78019800 = .command (.getSym true 102) ∧ decode 0x8C000000 = .command (.frameBegin true true) ∧
  decode 0x900000DE = .command (.frameData 0xDE) ∧ decode 0xA4000000 = .command (.frameEnd true) ∧
  decode 0xB0000003 = .command (.rdStatus 3) ∧ decode 0x20000300 = .reserved .lane3

/-- R79: a line of a mnemonic and its numbers is accepted exactly when the mnemonic is a command's and every number is in
its operand's range (`LANE` at most 2), and then it is the command with those numbers in its fields. -/
def Obligations.AssemblerSpellsExactlyTheLegalCommands : Prop :=
  ∀ (mnemonic : String) (operands : List Nat) (i : Instr),
    assembleCommand mnemonic operands = some i ↔ WellFormed i ∧ i.mnemonic = mnemonic ∧ operandsOf i = operands

/-- R80: the two pseudo-instructions. FRAME is FRAME_BEGIN, one FRAME_DATA a byte in order, FRAME_END: n + 2 commands;
`.word` is the raw word. -/
def Obligations.PseudoInstructionsExpand : Prop :=
  (∀ (b ls last : Bool) (bytes : List Byte),
    assemble "FRAME" (b.toNat :: ls.toNat :: last.toNat :: bytes.map BitVec.toNat) =
        some (encode (.frameBegin b ls) :: bytes.map (fun d => encode (.frameData d)) ++ [encode (.frameEnd last)]) ∧
      (frameCommands b ls last bytes).length = bytes.length + 2) ∧
  (∀ w : Word, assemble ".word" [w.toNat] = some [w])

/-! ### The step -/

/-- R76, R57: when the next thing at the ports is a command word that decodes to `i`, one step is `exec i` on the state
with that word taken off the port; nothing else is added around it. -/
def Obligations.StepRunsTheDecodedCommand : Prop :=
  ∀ (s : State) (w : Word) (rest : List Input) (i : Instr),
    s.inputs = .command w :: rest → decode w = .command i → step s = exec i { s with inputs := rest }

/-- R77: every command word, legal or reserved, in every state, is answered with exactly one response, whose `flt` is the
value of `FAULT` after the command; no command word stops the model. -/
def Obligations.EveryCommandIsAnsweredOnce : Prop :=
  ∀ (s : State) (w : Word) (rest : List Input), s.inputs = .command w :: rest →
    ∃ t rsp, step s = .next t ∧ t.inputs = rest ∧ t.out = .response rsp t.fault

/-- R227 (log 8, the model's reading): with nothing at the ports a step keeps every register, and shows nothing. -/
def Obligations.IdleStepKeepsEveryRegister : Prop :=
  ∀ s : State, s.inputs = [] → step s = .next { s with out := .silent }

/-- R240, R34: the input `rst` gives every register the value of R34's table, from any state, faulted or in a frame; no
word of the buffers counts as written. The parameters stay (R33). That the pending inputs and `draws` stay and `session`
counts on is the model's (logs 6, 10, 11). -/
def Obligations.ResetGivesTheResetValues : Prop :=
  (∀ (s : State) (rest : List Input), s.inputs = .reset :: rest →
    step s = .next
      { params := s.params, p := Vector.replicate 3 (Vector.replicate 32 0), rd := s.params.rdReset, mem := ⟨[], []⟩,
        crc := 0xFFFFFFFF, bidx := 0, sidx := 0, phase := .idle, curbuf := false, fault := false, cause := .none,
        fcmd := 0, inputs := rest, out := .silent, session := s.session + 1, draws := s.draws }) ∧
  (∀ params : Params, (State.resetWith params 0).rd = params.rdReset ∧ (State.resetWith params 0).crc = 0xFFFFFFFF ∧
    (State.resetWith params 0).phase = .idle ∧ (State.resetWith params 0).fault = false ∧
    statusWord (State.resetWith params 0) = (BitVec.ofBool params.rdReset).setWidth 32 <<< 26)

/-- R58, R78: an outside read of a word that exists, made while no frame is in progress or of the buffer the frame does
not use, returns `BUF[b][w]` and changes no register. The model's choices: a read that races with the frame returns the
next free value (log 11); a word that does not exist stops the model (log 12). -/
def Obligations.OutsideReadReturnsTheWord : Prop :=
  ∀ (s : State) (b : Bool) (w : BitVec 15) (rest : List Input), s.inputs = .outsideRead b w :: rest →
    (w.toNat < s.params.bufWords → (s.phase = .idle ∨ b ≠ s.curbuf) →
      step s = .next { s with inputs := rest, out := .readData (memRead s b w.toNat) }) ∧
    (w.toNat < s.params.bufWords → s.phase = .inFrame → b = s.curbuf →
      step s = .next
        { s with inputs := rest, out := .readData (Config.racyRead s.draws), draws := s.draws + 1 }) ∧
    (s.params.bufWords ≤ w.toNat → step s = .fault (.noSuchWord b w.toNat))

/-- R33, R60: no step changes a parameter: the constant tables are the same after every command and every reset. -/
def Obligations.ParametersNeverChange : Prop :=
  ∀ s t : State, step s = .next t → t.params = s.params

/-! ### Faults -/

/-- R214: while `FAULT` = 1 a word that decodes as RD_STATUS executes with `flt` = 1; every other word, legal or
reserved, changes no register and returns `rsp` = 0, `flt` = 1. -/
def Obligations.FaultedBlockOnlyReadsStatus : Prop :=
  ∀ (s : State) (w : Word) (rest : List Input), s.inputs = .command w :: rest → s.fault = true →
    (∀ sel, decode w = .command (.rdStatus sel) →
      step s = .next { s with
        inputs := rest, out := .response (statusSelect sel (statusWord s) s.crc s.fcmd s.bidx) true }) ∧
    ((∀ sel, decode w ≠ .command (.rdStatus sel)) →
      step s = .next { s with inputs := rest, out := .response 0 true })

/-- R218: the phase table. In the phase that does not allow it a command raises `Fault(SEQ)`, `FCMD` being its word; in
a phase that allows it, it never does. -/
def Obligations.OutOfPhaseRaisesSeq : Prop :=
  ∀ (i : Instr) (s : State), WellFormed i → s.fault = false →
    (allowedIn i s.phase = false → exec i s = .next (faulted .seq (encode i) s)) ∧
    (allowedIn i s.phase = true → ∀ t, exec i s = .next t → t.cause = .seq → s.cause = .seq)

/-- R219: the capacity table. An allowed command whose symbols do not all fit raises `Fault(CAP)` before it writes
anything; an allowed command whose symbols fit raises no fault, and FRAME_BEGIN never raises `CAP`. -/
def Obligations.OverCapacityRaisesCap : Prop :=
  ∀ (i : Instr) (s : State), WellFormed i → s.fault = false → allowedIn i s.phase = true →
    (overCapacity i s = true → exec i s = .next (faulted .cap (encode i) s)) ∧
    (overCapacity i s = false → ∃ t, exec i s = .next t ∧ t.fault = false ∧ t.cause = s.cause ∧ t.fcmd = s.fcmd)

/-- R212: the checks in their order, for every word in every state: ignored while `FAULT` = 1 (but RD_STATUS); reserved;
out of phase; over capacity; else executed with no fault. -/
def Obligations.FirstFailingCheckDecides : Prop :=
  ∀ (s s1 : State) (w : Word) (rest : List Input), s.inputs = .command w :: rest → s1 = { s with inputs := rest } →
    match decode w with
    | .reserved _ => step s = .next (if s.fault then { s1 with out := .response 0 true } else faulted .illegal w s1)
    | .command i =>
      if s.fault = true ∧ isRdStatus i = false then step s = .next { s1 with out := .response 0 true }
      else if isRdStatus i = false ∧ allowedIn i s.phase = false then step s = .next (faulted .seq w s1)
      else if isRdStatus i = false ∧ overCapacity i s = true then step s = .next (faulted .cap w s1)
      else ∃ t, step s = .next t ∧ t.fault = s.fault ∧ t.cause = s.cause ∧ t.fcmd = s.fcmd

/-- R210, R213, R216: a fault is precise. When a step by a command word sets `FAULT`, the only fields that change are
`FAULT`, `CAUSE` (to ILLEGAL, SEQ or CAP), `FCMD` (to that word) and the response (0, `flt` = 1); and only a command
word sets it. -/
def Obligations.FaultIsPrecise : Prop :=
  ∀ s t : State, step s = .next t → s.fault = false → t.fault = true →
    ∃ w rest c, s.inputs = .command w :: rest ∧ (c = .illegal ∨ c = .seq ∨ c = .cap) ∧
      t = { s with inputs := rest, fault := true, cause := c, fcmd := w, out := .response 0 true }

/-- R36 (e), R215: once `FAULT` = 1 no register and no buffer word changes, whatever comes over the ports, until `rst`;
and `rst` clears the fault. -/
def Obligations.FaultHoldsEverythingUntilReset : Prop :=
  ∀ s t : State, step s = .next t → s.fault = true →
    (s.inputs.head? ≠ some .reset → sameRegisters s t) ∧
    (s.inputs.head? = some .reset → t.fault = false ∧ t.cause = .none ∧ t.fcmd = 0)

/-! ### Reed-Solomon family -/

/-- R107: RS_CLEAR completes when no frame is in progress: all 96 parity bytes 0, `rsp` = 0, nothing else changes. -/
def Obligations.RsClearZeroesTheAccumulators : Prop :=
  ∀ s : State, s.fault = false → s.phase = .idle →
    exec .rsClear s =
      .next { s with p := Vector.replicate 3 (Vector.replicate 32 0), out := .response 0 false }

/-- R108, R103: RS_UPDATE completes for lanes 0 to 2 when no frame is in progress: lane `l` becomes `rs_update` of its
old value, byte by byte as R103 writes it; the other lanes and everything else stay; `LANE` = 3 is `Fault(ILLEGAL)` in
either phase (R217). -/
def Obligations.RsUpdateStepsOneLane : Prop :=
  (∀ (s : State) (lane : BitVec 2) (l : Lane) (c : Byte), s.fault = false → s.phase = .idle → lane.toNat = l.val →
    ∃ A : Accumulator,
      (∀ (j : Nat) (h : j < 31),
        A[j] = s.p[l][j + 1] ^^^ gfMul s.params (c ^^^ s.p[l][0]) (s.params.rsGen[31 - j])) ∧
      A[31] = gfMul s.params (c ^^^ s.p[l][0]) s.params.rsGen[0] ∧
      exec (.rsUpdate lane c) s = .next { s with p := s.p.set l A, out := .response 0 false }) ∧
  (∀ (s : State) (c : Byte), s.fault = false →
    exec (.rsUpdate 3 c) s = .next (faulted .illegal (0x20000300 ||| c.setWidth 32) s))

/-- R109: RS_READ completes in both phases for lanes 0 to 2: `rsp` is the parity byte, nothing else changes; `LANE` = 3 is
`Fault(ILLEGAL)` (R217). -/
def Obligations.RsReadReturnsAParityByte : Prop :=
  (∀ (s : State) (lane : BitVec 2) (l : Lane) (pos : BitVec 5), s.fault = false → lane.toNat = l.val →
    exec (.rsRead lane pos) s =
      .next { s with out := .response ((s.p[l][pos.toNat]'pos.isLt).setWidth 32) false }) ∧
  (∀ (s : State) (pos : BitVec 5), s.fault = false →
    exec (.rsRead 3 pos) s = .next (faulted .illegal (0x30000300 ||| pos.setWidth 32) s))

/-- R102: the product through the log and antilog tables: 0x00 when a factor is 0x00, else the antilog of the sum of the
logs taken mod 255. -/
def Obligations.ProductIsTheAntilogOfTheSumOfLogs : Prop :=
  ∀ (params : Params) (x y : Byte),
    (x = 0 ∨ y = 0 → gfMul params x y = 0) ∧
    (x ≠ 0 → y ≠ 0 → ∃ k : Fin 255, gfMul params x y = params.gfAlpha[k.val] ∧
      k.val = ((params.gfIndex[x.toNat]'x.isLt).toNat + (params.gfIndex[y.toNat]'y.isLt).toNat) % 255)

/-- R100 to R102: for every legal pair of tables the table product is the product of the field: multiplication of
polynomials over GF(2) modulo the field polynomial of R101 (e). -/
def Obligations.LegalTablesMultiplyInTheField : Prop :=
  ∀ (params : Params) (poly : BitVec 9), LegalField params → isFieldPoly params poly →
    ∀ x y : Byte, gfMul params x y = fieldProduct poly x y

/-- R105: for every legal pair of tables and every legal generator polynomial, the message followed by the accumulator it
leaves is a multiple of the generator polynomial, of as many coefficients as bytes: a systematic code word. For the empty
message the accumulator is zero. -/
def Obligations.MessageThenParityIsACodeWord : Prop :=
  ∀ params : Params, LegalField params → LegalGenerator params →
    (∀ message : List Byte, ∃ q : List Byte, q.length = message.length ∧
      message ++ (accumulatorAfter params message).toList = timesGenerator params q) ∧
    accumulatorAfter params [] = Vector.replicate 32 0

/-! ### Line coder -/

/-- R133, R121: ENC_BYTE completes when no frame is in progress: `rsp` is bits 9:0 of the code-table entry, `RD` its bit
10, nothing else changes. -/
def Obligations.EncByteLooksUpTheTable : Prop :=
  ∀ (s : State) (b : Byte) (e : Entry), s.fault = false → s.phase = .idle →
    e = (s.params.encTable[s.rd.toNat]'(Bool.toNat_lt s.rd))[b.toNat]'b.isLt →
    exec (.encByte b) s =
      .next { s with rd := e.getLsbD 10, out := .response ((e.extractLsb' 0 10).setWidth 32) false }

/-- R134, R122: ENC_SYNC completes when no frame is in progress: the comma of the state, `RD` flipped, nothing else. -/
def Obligations.EncSyncSendsTheCommaAndFlips : Prop :=
  ∀ s : State, s.fault = false → s.phase = .idle →
    exec .encSync s =
      .next { s with rd := !s.rd, out := .response (if s.rd then 0x305 else 0x0FA) false }

/-- R130, R128: for every code table whose entries lean only away from their state, the sum of ones minus zeros at every
symbol boundary of every stream of bytes and commas is 0 or +2 from state 0, and 0 or -2 from state 1. -/
def Obligations.StreamsAreDcBalanced : Prop :=
  ∀ params : Params, BalancedTable params → ∀ (inputs : List LineInput) (k : Nat),
    (runningImbalance (streamSymbols params false inputs) k = 0 ∨
      runningImbalance (streamSymbols params false inputs) k = 2) ∧
    (runningImbalance (streamSymbols params true inputs) k = 0 ∨
      runningImbalance (streamSymbols params true inputs) k = -2)

/-- R131, R132: for every table that meets their constraints, a decoder that tracks the state as the encoder does
recovers every byte and every comma of every stream, from either starting state. -/
def Obligations.TrackingDecoderRecoversTheStream : Prop :=
  ∀ params : Params, DecodableTable params → ∀ (s : Bool) (inputs : List LineInput),
    trackingDecode params s (streamSymbols params s inputs) = some inputs

/-! ### Packer -/

/-- R11: a read of a word just written returns it; every other word of both buffers reads as before. -/
def Obligations.ReadAfterWrite : Prop :=
  ∀ (s : State) (b b' : Bool) (w w' : Nat) (v : Word),
    memRead (memWrite b w v s) b' w' = if b' = b ∧ w' = w then v else memRead s b' w'

/-- R154, R150: PUT_SYM completes when no frame is in progress and the index fits: word `idx div 3` of the buffer becomes
its old content (0 when `idx mod 3` = 0) ORed with the symbol at bit `10 x (idx mod 3)`; every other word of both
buffers and every register stays; `rsp` = 0. -/
def Obligations.PutSymWritesOneWord : Prop :=
  ∀ (s : State) (b : Bool) (idx : Index) (sym : Symbol), s.fault = false → s.phase = .idle →
    idx.toNat < 3 * s.params.bufWords →
    ∃ m : Memory, exec (.putSym b idx sym) s = .next { s with mem := m, out := .response 0 false } ∧
      ∀ b' w', memRead { s with mem := m } b' w' =
        if b' = b ∧ w' = wordOfIndex idx.toNat then
          (if idx.toNat % 3 = 0 then 0 else memRead s b (wordOfIndex idx.toNat)) |||
            (sym.setWidth 32 <<< (10 * (idx.toNat % 3)))
        else memRead s b' w'

/-- R155, R151: GET_SYM completes in both phases when the index fits: `rsp` is the 10 bits of word `idx div 3` from bit
`10 x (idx mod 3)` up; nothing else changes. -/
def Obligations.GetSymReadsOneSymbol : Prop :=
  ∀ (s : State) (b : Bool) (idx : Index), s.fault = false → idx.toNat < 3 * s.params.bufWords →
    exec (.getSym b idx) s =
      .next { s with
        out := .response ((memRead s b (idx.toNat / 3) >>> (10 * (idx.toNat % 3))) &&& 0x3FF) false }

/-- R51, R84: symbol `i` stands in word `i div 3` at bits `10 x (i mod 3) + 9` to `10 x (i mod 3)`. -/
def Obligations.SymbolLayout : Prop :=
  ∀ (s : State) (b : Bool) (i : Nat),
    getSymbol s b i = (memRead s b (i / 3)).extractLsb' (10 * (i % 3)) 10 ∧
    wordOfIndex i = i / 3 ∧ 10 * (i % 3) + 9 ≤ 29

/-- R153: if the word's slot 0 was put, no later put is at that slot, and index `i` has been put once in all, with value
`v`, then `get_symbol` returns `v`, whatever else was put in either buffer. -/
def Obligations.PackerRoundTripAfterTheZeroingPut : Prop :=
  ∀ (s : State) (b : Bool) (i : Nat) (z v : Symbol) (puts : List (Bool × Nat × Symbol)),
    (∀ x ∈ puts, ¬ (x.1 = b ∧ x.2.1 = 3 * (i / 3))) →
    ((b, 3 * (i / 3), z) :: puts).filter (fun x => x.1 == b && x.2.1 == i) = [(b, i, v)] →
    getSymbol (((b, 3 * (i / 3), z) :: puts).foldl (fun u x => putSymbol x.1 x.2.1 x.2.2 u) s) b i = v

/-- R152: once a word's slot 0 has been put, its bits 31:30 are 0 and stay 0 under any later puts. -/
def Obligations.TopTwoBitsStayZero : Prop :=
  ∀ (s : State) (b : Bool) (w : Nat) (z : Symbol) (puts : List (Bool × Nat × Symbol)),
    (memRead (puts.foldl (fun u x => putSymbol x.1 x.2.1 x.2.2 u) (putSymbol b (3 * w) z s)) b w).extractLsb' 30 2 = 0

/-! ### Frame pipeline -/

/-- R171: the CRC step is eight turns that shift right by one and `xor` `CRC_POLY` in when bit 0 was set, from the old value
with the byte `xor`ed in at the low end; and it is the table-driven step: shift by a byte and `xor` the entry that the low
byte selects, the entry of `v` being the CRC step of `v` from 0. -/
def Obligations.CrcStepIsTheTableStep : Prop :=
  ∀ (params : Params) (c : Word) (b : Byte),
    (let turn (t : Word) : Word := (t >>> 1) ^^^ (if t.getLsbD 0 then params.crcPoly else 0)
     crcStep params c b = turn (turn (turn (turn (turn (turn (turn (turn (c ^^^ b.setWidth 32))))))))) ∧
    crcStep params c b = (c >>> 8) ^^^ crcStep params 0 ((c ^^^ b.setWidth 32).extractLsb' 0 8)

/-- R172: FRAME_BEGIN completes when no frame is in progress: accumulators and `BIDX` zero, `CRC` all ones, `CURBUF` = `B`,
`PHASE` = `IN_FRAME`; without leading sync `RD` and the buffers stay and `SIDX` is 0; with it `RD` flips, `SIDX` is 1,
and word 0 of the buffer is the comma with all other bits 0; every other word stays; `rsp` = 0. -/
def Obligations.FrameBeginStartsAFrame : Prop :=
  ∀ (s : State) (b ls : Bool), s.fault = false → s.phase = .idle →
    ∃ m : Memory,
      exec (.frameBegin b ls) s = .next { s with
        p := Vector.replicate 3 (Vector.replicate 32 0), bidx := 0, sidx := (if ls then 1 else 0), crc := 0xFFFFFFFF,
        curbuf := b, phase := .inFrame, rd := (if ls then !s.rd else s.rd), mem := m, out := .response 0 false } ∧
      ∀ b' w', memRead { s with mem := m } b' w' =
        if ls = true ∧ b' = b ∧ w' = 0 then (if s.rd then 0x305 else 0x0FA) else memRead s b' w'

/-- R174, R173: FRAME_DATA completes in a frame while the buffer is not full: `CRC` takes the byte, lane `BIDX mod 3` takes
it, `RD` and the symbol are those of the code table, the symbol is put at `SIDX` of `CURBUF`, both indices advance by one,
`rsp` is the symbol; every other word and everything else stays. -/
def Obligations.FrameDataPushesOneByte : Prop :=
  ∀ (s : State) (d : Byte) (e : Entry), s.fault = false → s.phase = .inFrame → s.sidx.toNat < 3 * s.params.bufWords →
    e = (s.params.encTable[s.rd.toNat]'(Bool.toNat_lt s.rd))[d.toNat]'d.isLt →
    ∃ m : Memory,
      exec (.frameData d) s = .next { s with
        crc := crcStep s.params s.crc d,
        p := s.p.set (s.bidx.toNat % 3) (rsUpdate s.params (s.p[s.bidx.toNat % 3]'(Nat.mod_lt _ (by decide))) d)
          (Nat.mod_lt _ (by decide)),
        rd := e.getLsbD 10, mem := m, sidx := s.sidx + 1, bidx := s.bidx + 1,
        out := .response ((e.extractLsb' 0 10).setWidth 32) false } ∧
      ∀ b' w', memRead { s with mem := m } b' w' =
        if b' = s.curbuf ∧ w' = wordOfIndex s.sidx.toNat then
          (if s.sidx.toNat % 3 = 0 then 0 else memRead s s.curbuf (wordOfIndex s.sidx.toNat)) |||
            ((e.extractLsb' 0 10).setWidth 32 <<< (10 * (s.sidx.toNat % 3)))
        else memRead s b' w'

/-- R176, R173, R175: FRAME_END completes in a frame when its 100 or 101 symbols fit: the four CRC bytes are pushed to
their lanes, `RD` runs through CRC bytes, parity and optional comma, `BIDX` advances by 4, `SIDX` by the number of symbols,
`PHASE` is `IDLE`, `rsp` is `SIDX`; `CRC`, `CURBUF`, the fault registers and every word outside the words of the new
symbols stay. The premise `BIDX` <= `SIDX` is R36 (a). -/
def Obligations.FrameEndFinishesTheFrame : Prop :=
  ∀ (s : State) (last : Bool) (crc : List Byte), s.fault = false → s.phase = .inFrame →
    s.bidx.toNat ≤ s.sidx.toNat → s.sidx.toNat + 100 + last.toNat ≤ 3 * s.params.bufWords →
    crc = crcBytes s.params (s.crc ^^^ 0xFFFFFFFF) →
    ∃ (m : Memory) (P : Vector Accumulator 3),
      exec (.frameEnd last) s = .next { s with
        p := P, rd := streamState s.params s.rd (frameTail crc P last), mem := m, bidx := s.bidx + 4,
        sidx := s.sidx + (if last then 101 else 100), phase := .idle,
        out := .response ((s.sidx + (if last then 101 else 100)).setWidth 32) false } ∧
      (∀ l : Lane, P[l] = (laneBytes l s.bidx.toNat crc).foldl (rsUpdate s.params) s.p[l]) ∧
      ∀ b' w', ¬ (b' = s.curbuf ∧ wordOfIndex s.sidx.toNat ≤ w' ∧
          w' ≤ wordOfIndex (s.sidx.toNat + 99 + last.toNat)) →
        memRead { s with mem := m } b' w' = memRead s b' w'

/-- R175: the wire order of the CRC bytes. R171, R176 corner case (a): the CRC of no data is four zero bytes, whatever
`CRC_POLY` and the order are. -/
def Obligations.CrcBytesInWireOrder : Prop :=
  ∀ (params : Params) (v : Word),
    (params.crcByteOrder = .msbFirst → ∃ a b c d : Byte, crcBytes params v = [a, b, c, d] ∧ v = a ++ b ++ c ++ d) ∧
    (params.crcByteOrder = .lsbFirst → ∃ a b c d : Byte, crcBytes params v = [a, b, c, d] ∧ v = d ++ c ++ b ++ a) ∧
    crcBytes params (frameCrc params [] ^^^ 0xFFFFFFFF) = [0, 0, 0, 0]

/-- R36 (b), (f), R23, R25, R26, R85, R106: every step keeps the property that, while a frame is in progress, there are a
leading-sync choice, a starting disparity and a list of data bytes of which `CRC`, `BIDX`, `SIDX`, `RD`, the three
accumulators and every word of the current buffer up to `SIDX` are exactly the functions R85 and R106 say. -/
def Obligations.EveryStepKeepsTheFrameContent : Prop :=
  ∀ s t : State, FrameInvariant s → step s = .next t → FrameInvariant t

/-- R177, R85, R86, R178: a FRAME_END that fits finishes the frame: word by word the buffer holds the symbols of the whole
layout (optional comma, data, CRC bytes, interleaved parity, optional comma) produced by one running disparity, unused
slots and bits 31:30 being 0; `SIDX` and `rsp` are its length; `P` is the parity of each lane over data and CRC bytes. -/
def Obligations.FinishedFrameHasTheFrameLayout : Prop :=
  ∀ (s : State) (ls rd0 last : Bool) (data : List Byte) (ys : List Symbol),
    FrameContent s ls rd0 data → s.fault = false → s.phase = .inFrame →
    s.sidx.toNat + 100 + last.toNat ≤ 3 * s.params.bufWords →
    ys = streamSymbols s.params rd0 (frameInputs s.params ls data last) →
    ∃ t, exec (.frameEnd last) s = .next t ∧
      ys.length = ls.toNat + data.length + 4 + 96 + last.toNat ∧ t.sidx.toNat = ys.length ∧
      t.out = .response (BitVec.ofNat 32 ys.length) false ∧
      (∀ w, 3 * w < ys.length → memRead t s.curbuf w = packedWord ys w) ∧
      (∀ w, ys.length ≤ 3 * w → memRead t s.curbuf w = memRead s s.curbuf w) ∧
      t.rd = streamState s.params rd0 (frameInputs s.params ls data last) ∧
      (∀ l : Lane, t.p[l] = laneParity s.params l (protectedBytes s.params data)) ∧
      t.crc = frameCrc s.params data

/-- R170, R177, R80: the commands of the pseudo-instruction FRAME, issued in an idle block when the whole frame fits, take
n + 2 steps that leave the block idle with no fault and the buffer holding the symbols of the whole layout, `SIDX` and
`rsp` being their number; the other buffer stays. The frame begins in the line state `RD` had before it. -/
def Obligations.FrameCommandsProduceTheWholeFrame : Prop :=
  ∀ (s : State) (b ls last : Bool) (data : List Byte) (rest : List Input) (ys : List Symbol),
    s.fault = false → s.phase = .idle → ls.toNat + data.length + 100 + last.toNat ≤ 3 * s.params.bufWords →
    s.inputs = issued (frameCommands b ls last data) ++ rest →
    ys = streamSymbols s.params s.rd (frameInputs s.params ls data last) →
    ∃ t, runSteps (data.length + 2) s = .next t ∧
      t.inputs = rest ∧ t.phase = .idle ∧ t.fault = false ∧ t.curbuf = b ∧ t.sidx.toNat = ys.length ∧
      t.out = .response (BitVec.ofNat 32 ys.length) false ∧
      (∀ w, 3 * w < ys.length → memRead t b w = packedWord ys w) ∧
      (∀ w, ys.length ≤ 3 * w → memRead t b w = memRead s b w) ∧
      (∀ w, memRead t (!b) w = memRead s (!b) w) ∧
      t.rd = streamState s.params s.rd (frameInputs s.params ls data last)

/-- R106, R173, R86: every byte pushed, data or CRC, goes to lane `laneOf` of its byte number `BIDX` and to no other, and
counts `BIDX` on by one; of the `n + 4` byte numbers of a frame of `n` data bytes lane `l` is given `ceil((n + 4 - l) / 3)`,
and so many bytes stand in `laneBytes`, the share that the frame statements name. -/
def Obligations.EachLaneReceivesItsShare : Prop :=
  (∀ (s : State) (b : Byte) (l : Lane),
    (pushByte b s).p[l] = (if laneOf s.bidx.toNat = l then rsUpdate s.params s.p[l] b else s.p[l]) ∧
      (pushByte b s).bidx = s.bidx + 1) ∧
  (∀ (n : Nat) (l : Lane), ((List.range (n + 4)).filter fun k => laneOf k == l).length = (n + 4 - l.val + 2) / 3) ∧
  (∀ (params : Params) (data : List Byte) (l : Lane),
    (laneBytes l 0 (protectedBytes params data)).length = (data.length + 4 - l.val + 2) / 3)

/-! ### Status -/

/-- R200: RD_STATUS completes in both phases and whether or not `FAULT` = 1: `rsp` is `STATUS`, `CRC`, `BIDX` or `FCMD`,
`flt` is `FAULT`, nothing changes. -/
def Obligations.RdStatusReadsTheSelectedRegister : Prop :=
  ∀ s : State,
    exec (.rdStatus 0) s = .next { s with out := .response (statusWord s) s.fault } ∧
    exec (.rdStatus 1) s = .next { s with out := .response s.crc s.fault } ∧
    exec (.rdStatus 2) s = .next { s with out := .response (s.bidx.setWidth 32) s.fault } ∧
    exec (.rdStatus 3) s = .next { s with out := .response s.fcmd s.fault }

/-- R32, R200: the fields of the status word. -/
def Obligations.StatusWordFields : Prop :=
  ∀ s : State,
    (statusWord s).getLsbD 31 = s.fault ∧ (statusWord s).extractLsb' 28 3 = s.cause.code ∧
    (statusWord s).getLsbD 27 = s.phase.bit ∧ (statusWord s).getLsbD 26 = s.rd ∧
    (statusWord s).getLsbD 25 = s.curbuf ∧ (statusWord s).extractLsb' 16 9 = 0 ∧
    (statusWord s).extractLsb' 0 16 = s.sidx

/-! ### Whole-machine rules and invariants -/

/-- R20 to R28: each register and each buffer is written only by the commands its rule names as its writers: `P`, `RD`,
`BUF[b]`, `CRC`, `BIDX` and `SIDX`, `PHASE` (FRAME_BEGIN and FRAME_END), `CURBUF` (FRAME_BEGIN, from its `B` field). -/
def Obligations.OnlyItsCommandsWriteARegister : Prop :=
  ∀ (i : Instr) (s t : State), exec i s = .next t →
    (mayWriteP i = false → t.p = s.p) ∧
    (mayWriteRd i = false → t.rd = s.rd) ∧
    (∀ b, mayWriteBuffer s i b = false → ∀ w, memRead t b w = memRead s b w) ∧
    (mayWriteCrc i = false → t.crc = s.crc) ∧
    (mayWriteIndices i = false → t.bidx = s.bidx ∧ t.sidx = s.sidx) ∧
    (t.phase ≠ s.phase → (∃ b ls, i = .frameBegin b ls ∧ t.phase = .inFrame) ∨ (∃ last, i = .frameEnd last ∧ t.phase = .idle)) ∧
    (t.curbuf ≠ s.curbuf → ∃ b ls, i = .frameBegin b ls ∧ t.curbuf = b)

/-- R36 (a) to (d) with the canonical form of the memory: every step keeps them. -/
def Obligations.EveryStepKeepsTheSequencingInvariant : Prop :=
  ∀ s t : State, SequencingInvariant s → step s = .next t → SequencingInvariant t

/-- R36: the invariants hold right after reset, for every choice of the parameters, and at `State.reset`. -/
def Obligations.ResetMeetsTheInvariants : Prop :=
  (∀ (params : Params) (session : Nat),
    SequencingInvariant (State.resetWith params session) ∧ FrameInvariant (State.resetWith params session)) ∧
  SequencingInvariant State.reset ∧ FrameInvariant State.reset

/-- R35, R78: the outcome of a command is a function of the registers, the buffers, the parameters and the word alone: two
states that agree on them and differ in what the ports showed before, in what comes next, or in the count of racy reads
are taken by the same word to states that agree again and show the same response. -/
def Obligations.CommandsDependOnRegistersAlone : Prop :=
  ∀ (s : State) (w : Word) (rest rest' : List Input) (o : Output) (n : Nat) (t : State),
    step { s with inputs := .command w :: rest } = .next t →
    step { s with inputs := .command w :: rest', out := o, draws := n } =
      .next { t with inputs := rest', draws := n }

/-! ### The default tables -/

/-- R130 to R132, R128: the spec's default code table (PRESUMED, log 2) meets every constraint the spec puts on the code
table, whatever `BUF_WORDS` and `HOST_BYTE_ORDER` are. -/
def Obligations.DefaultCodeTableIsLegal : Prop :=
  ∀ (n : Nat) (host : HostByteOrder) (pos : 1 ≤ n) (le : n ≤ 21845),
    BalancedTable (defaultParams n host pos le) ∧ DecodableTable (defaultParams n host pos le)

/-- R124 to R129: the printed code table is the one that the 5b/6b and 3b/4b codes, the alternate code and the disparity
rule construct. -/
def Obligations.DefaultCodeTableIsConstructed : Prop :=
  ∀ (n : Nat) (host : HostByteOrder) (pos : 1 ≤ n) (le : n ≤ 21845) (s : Bool) (b : Byte),
    encEntry (defaultParams n host pos le) s b = constructedEntry s b
end

