-- ==== Sys2Proof/Laws/Defaults.lean ====
section
/-! SUPPORT. The default field tables and generator polynomial (spec/40_rs_parity.md R104) are legal: R101, R102. -/

namespace Sys2Proof.Machine

/-- R101 (d): the default log table undoes the default antilog table. -/
theorem default_index_alpha_list :
    (gfAlphaDefault.toList.zipIdx.take 255).all (fun x => (gfIndexDefault.toList.getD x.1.toNat 0).toNat == x.2) = true := by
  decide +kernel

/-- R101 (e): each entry of the default antilog table is 0x02 times the one before. -/
theorem default_alpha_step_list :
    ((gfAlphaDefault.toList.take 254).zip gfAlphaDefault.toList.tail).all (fun x => x.2 == timesTwo 0x187 x.1) = true := by
  decide +kernel

/-- R101 (e): the default field polynomial is irreducible. -/
theorem default_field_irreducible : irreducibleOverGf2 0x187 := by unfold irreducibleOverGf2; decide +kernel

theorem default_index_alpha (k : Nat) (hk : k < 255) :
    (tableEntry gfIndexDefault (gfAlphaDefault[k])).toNat = k := by
  have h := default_index_alpha_list
  rw [List.all_eq_true] at h
  have := h (gfAlphaDefault[k], k) (by
    rw [List.mem_iff_getElem]
    refine ⟨k, by simp; omega, by simp⟩)
  have hb : (gfAlphaDefault[k]).toNat < 256 := (gfAlphaDefault[k]).isLt
  simpa [tableEntry, hb] using this

theorem default_alpha_step (k : Nat) (hk : k < 254) : gfAlphaDefault[k + 1] = timesTwo 0x187 gfAlphaDefault[k] := by
  have h := default_alpha_step_list
  rw [List.all_eq_true] at h
  have := h (gfAlphaDefault[k], gfAlphaDefault[k + 1]) (by
    rw [List.mem_iff_getElem]
    refine ⟨k, by simp; omega, by simp⟩)
  simpa using this

/-- R101 (a), (c). -/
theorem default_alpha_ends : gfAlphaDefault[0] = 1 ∧ gfAlphaDefault[255] = 0 := by decide +kernel

/-- R102: monic, with a constant coefficient that is not 0. -/
theorem default_generator_ends : rsGenDefault[32] = 1 ∧ rsGenDefault[0] ≠ 0 := by decide +kernel

variable (n : Nat) (host : HostByteOrder) (pos : 1 ≤ n) (le : n ≤ 21845)

/-- R101 (e) holds of the default antilog table with the polynomial 0x187. -/
theorem default_isFieldPoly : isFieldPoly (defaultParams n host pos le) 0x187 :=
  ⟨by decide, default_field_irreducible, fun k => default_alpha_step k.val k.isLt⟩

/-- The default log and antilog tables are a legal pair (R101). -/
theorem default_legalField : LegalField (defaultParams n host pos le) where
  alpha_zero := default_alpha_ends.1
  alpha_nonzero k h := by
    have := default_index_alpha k.val k.isLt
    rw [show gfAlphaDefault[k.val] = 0 from h] at this
    have h0 : (tableEntry gfIndexDefault 0).toNat = 255 := by decide
    omega
  alpha_once j k h := by
    have hj := default_index_alpha j.val j.isLt
    have hk := default_index_alpha k.val k.isLt
    rw [show gfAlphaDefault[j.val] = gfAlphaDefault[k.val] from h] at hj
    exact Fin.ext (hj.symm.trans hk)
  alpha_last := default_alpha_ends.2
  index_alpha k := default_index_alpha k.val k.isLt
  index_zero := show tableEntry gfIndexDefault 0 = 255 by decide
  field_poly := ⟨0x187, default_isFieldPoly n host pos le⟩

/-- The default generator polynomial is legal (R102). -/
theorem default_legalGenerator : LegalGenerator (defaultParams n host pos le) := 
  ⟨default_generator_ends.1, default_generator_ends.2⟩

end Sys2Proof.Machine
end

