-- ==== Sys2Proof/Laws/State.lean ====
section
/-! SUPPORT. One lemma per field per update of the state, true by rfl, so that no proof unfolds a record update. -/

namespace Sys2Proof.Machine

variable (s : State)

/-! ### `memWrite` -/

@[simp] theorem memWrite_params (b : Bool) (w : Nat) (v : Word) : (memWrite b w v s).params = s.params := rfl
@[simp] theorem memWrite_p (b : Bool) (w : Nat) (v : Word) : (memWrite b w v s).p = s.p := rfl
@[simp] theorem memWrite_rd (b : Bool) (w : Nat) (v : Word) : (memWrite b w v s).rd = s.rd := rfl
@[simp] theorem memWrite_mem (b : Bool) (w : Nat) (v : Word) : (memWrite b w v s).mem = s.mem.write b w v := rfl
@[simp] theorem memWrite_crc (b : Bool) (w : Nat) (v : Word) : (memWrite b w v s).crc = s.crc := rfl
@[simp] theorem memWrite_bidx (b : Bool) (w : Nat) (v : Word) : (memWrite b w v s).bidx = s.bidx := rfl
@[simp] theorem memWrite_sidx (b : Bool) (w : Nat) (v : Word) : (memWrite b w v s).sidx = s.sidx := rfl
@[simp] theorem memWrite_phase (b : Bool) (w : Nat) (v : Word) : (memWrite b w v s).phase = s.phase := rfl
@[simp] theorem memWrite_curbuf (b : Bool) (w : Nat) (v : Word) : (memWrite b w v s).curbuf = s.curbuf := rfl
@[simp] theorem memWrite_fault (b : Bool) (w : Nat) (v : Word) : (memWrite b w v s).fault = s.fault := rfl
@[simp] theorem memWrite_cause (b : Bool) (w : Nat) (v : Word) : (memWrite b w v s).cause = s.cause := rfl
@[simp] theorem memWrite_fcmd (b : Bool) (w : Nat) (v : Word) : (memWrite b w v s).fcmd = s.fcmd := rfl
@[simp] theorem memWrite_inputs (b : Bool) (w : Nat) (v : Word) : (memWrite b w v s).inputs = s.inputs := rfl
@[simp] theorem memWrite_out (b : Bool) (w : Nat) (v : Word) : (memWrite b w v s).out = s.out := rfl
@[simp] theorem memWrite_session (b : Bool) (w : Nat) (v : Word) : (memWrite b w v s).session = s.session := rfl
@[simp] theorem memWrite_draws (b : Bool) (w : Nat) (v : Word) : (memWrite b w v s).draws = s.draws := rfl

/-! ### `putSymbol` -/

@[simp] theorem putSymbol_params (b : Bool) (i : Nat) (v : Symbol) : (putSymbol b i v s).params = s.params := rfl
@[simp] theorem putSymbol_p (b : Bool) (i : Nat) (v : Symbol) : (putSymbol b i v s).p = s.p := rfl
@[simp] theorem putSymbol_rd (b : Bool) (i : Nat) (v : Symbol) : (putSymbol b i v s).rd = s.rd := rfl
@[simp] theorem putSymbol_mem (b : Bool) (i : Nat) (v : Symbol) : (putSymbol b i v s).mem = s.mem.write b (wordOfIndex i) (putValue s b i v) := rfl
@[simp] theorem putSymbol_crc (b : Bool) (i : Nat) (v : Symbol) : (putSymbol b i v s).crc = s.crc := rfl
@[simp] theorem putSymbol_bidx (b : Bool) (i : Nat) (v : Symbol) : (putSymbol b i v s).bidx = s.bidx := rfl
@[simp] theorem putSymbol_sidx (b : Bool) (i : Nat) (v : Symbol) : (putSymbol b i v s).sidx = s.sidx := rfl
@[simp] theorem putSymbol_phase (b : Bool) (i : Nat) (v : Symbol) : (putSymbol b i v s).phase = s.phase := rfl
@[simp] theorem putSymbol_curbuf (b : Bool) (i : Nat) (v : Symbol) : (putSymbol b i v s).curbuf = s.curbuf := rfl
@[simp] theorem putSymbol_fault (b : Bool) (i : Nat) (v : Symbol) : (putSymbol b i v s).fault = s.fault := rfl
@[simp] theorem putSymbol_cause (b : Bool) (i : Nat) (v : Symbol) : (putSymbol b i v s).cause = s.cause := rfl
@[simp] theorem putSymbol_fcmd (b : Bool) (i : Nat) (v : Symbol) : (putSymbol b i v s).fcmd = s.fcmd := rfl
@[simp] theorem putSymbol_inputs (b : Bool) (i : Nat) (v : Symbol) : (putSymbol b i v s).inputs = s.inputs := rfl
@[simp] theorem putSymbol_out (b : Bool) (i : Nat) (v : Symbol) : (putSymbol b i v s).out = s.out := rfl
@[simp] theorem putSymbol_session (b : Bool) (i : Nat) (v : Symbol) : (putSymbol b i v s).session = s.session := rfl
@[simp] theorem putSymbol_draws (b : Bool) (i : Nat) (v : Symbol) : (putSymbol b i v s).draws = s.draws := rfl

/-! ### `setLane` -/

@[simp] theorem setLane_params (l : Lane) (A : Accumulator) : (setLane l A s).params = s.params := rfl
@[simp] theorem setLane_p (l : Lane) (A : Accumulator) : (setLane l A s).p = s.p.set l A := rfl
@[simp] theorem setLane_rd (l : Lane) (A : Accumulator) : (setLane l A s).rd = s.rd := rfl
@[simp] theorem setLane_mem (l : Lane) (A : Accumulator) : (setLane l A s).mem = s.mem := rfl
@[simp] theorem setLane_crc (l : Lane) (A : Accumulator) : (setLane l A s).crc = s.crc := rfl
@[simp] theorem setLane_bidx (l : Lane) (A : Accumulator) : (setLane l A s).bidx = s.bidx := rfl
@[simp] theorem setLane_sidx (l : Lane) (A : Accumulator) : (setLane l A s).sidx = s.sidx := rfl
@[simp] theorem setLane_phase (l : Lane) (A : Accumulator) : (setLane l A s).phase = s.phase := rfl
@[simp] theorem setLane_curbuf (l : Lane) (A : Accumulator) : (setLane l A s).curbuf = s.curbuf := rfl
@[simp] theorem setLane_fault (l : Lane) (A : Accumulator) : (setLane l A s).fault = s.fault := rfl
@[simp] theorem setLane_cause (l : Lane) (A : Accumulator) : (setLane l A s).cause = s.cause := rfl
@[simp] theorem setLane_fcmd (l : Lane) (A : Accumulator) : (setLane l A s).fcmd = s.fcmd := rfl
@[simp] theorem setLane_inputs (l : Lane) (A : Accumulator) : (setLane l A s).inputs = s.inputs := rfl
@[simp] theorem setLane_out (l : Lane) (A : Accumulator) : (setLane l A s).out = s.out := rfl
@[simp] theorem setLane_session (l : Lane) (A : Accumulator) : (setLane l A s).session = s.session := rfl
@[simp] theorem setLane_draws (l : Lane) (A : Accumulator) : (setLane l A s).draws = s.draws := rfl

/-! ### `updateLane` -/

@[simp] theorem updateLane_params (l : Lane) (c : Byte) : (updateLane l c s).params = s.params := rfl
@[simp] theorem updateLane_p (l : Lane) (c : Byte) : (updateLane l c s).p = s.p.set l (rsUpdate s.params s.p[l] c) := rfl
@[simp] theorem updateLane_rd (l : Lane) (c : Byte) : (updateLane l c s).rd = s.rd := rfl
@[simp] theorem updateLane_mem (l : Lane) (c : Byte) : (updateLane l c s).mem = s.mem := rfl
@[simp] theorem updateLane_crc (l : Lane) (c : Byte) : (updateLane l c s).crc = s.crc := rfl
@[simp] theorem updateLane_bidx (l : Lane) (c : Byte) : (updateLane l c s).bidx = s.bidx := rfl
@[simp] theorem updateLane_sidx (l : Lane) (c : Byte) : (updateLane l c s).sidx = s.sidx := rfl
@[simp] theorem updateLane_phase (l : Lane) (c : Byte) : (updateLane l c s).phase = s.phase := rfl
@[simp] theorem updateLane_curbuf (l : Lane) (c : Byte) : (updateLane l c s).curbuf = s.curbuf := rfl
@[simp] theorem updateLane_fault (l : Lane) (c : Byte) : (updateLane l c s).fault = s.fault := rfl
@[simp] theorem updateLane_cause (l : Lane) (c : Byte) : (updateLane l c s).cause = s.cause := rfl
@[simp] theorem updateLane_fcmd (l : Lane) (c : Byte) : (updateLane l c s).fcmd = s.fcmd := rfl
@[simp] theorem updateLane_inputs (l : Lane) (c : Byte) : (updateLane l c s).inputs = s.inputs := rfl
@[simp] theorem updateLane_out (l : Lane) (c : Byte) : (updateLane l c s).out = s.out := rfl
@[simp] theorem updateLane_session (l : Lane) (c : Byte) : (updateLane l c s).session = s.session := rfl
@[simp] theorem updateLane_draws (l : Lane) (c : Byte) : (updateLane l c s).draws = s.draws := rfl

/-! ### `clearLanes` -/

@[simp] theorem clearLanes_params : (clearLanes s).params = s.params := rfl
@[simp] theorem clearLanes_p : (clearLanes s).p = Vector.replicate 3 zeroAccumulator := rfl
@[simp] theorem clearLanes_rd : (clearLanes s).rd = s.rd := rfl
@[simp] theorem clearLanes_mem : (clearLanes s).mem = s.mem := rfl
@[simp] theorem clearLanes_crc : (clearLanes s).crc = s.crc := rfl
@[simp] theorem clearLanes_bidx : (clearLanes s).bidx = s.bidx := rfl
@[simp] theorem clearLanes_sidx : (clearLanes s).sidx = s.sidx := rfl
@[simp] theorem clearLanes_phase : (clearLanes s).phase = s.phase := rfl
@[simp] theorem clearLanes_curbuf : (clearLanes s).curbuf = s.curbuf := rfl
@[simp] theorem clearLanes_fault : (clearLanes s).fault = s.fault := rfl
@[simp] theorem clearLanes_cause : (clearLanes s).cause = s.cause := rfl
@[simp] theorem clearLanes_fcmd : (clearLanes s).fcmd = s.fcmd := rfl
@[simp] theorem clearLanes_inputs : (clearLanes s).inputs = s.inputs := rfl
@[simp] theorem clearLanes_out : (clearLanes s).out = s.out := rfl
@[simp] theorem clearLanes_session : (clearLanes s).session = s.session := rfl
@[simp] theorem clearLanes_draws : (clearLanes s).draws = s.draws := rfl

/-! ### `emitSymbol` -/

@[simp] theorem emitSymbol_params (y : Symbol) : (emitSymbol y s).params = s.params := rfl
@[simp] theorem emitSymbol_p (y : Symbol) : (emitSymbol y s).p = s.p := rfl
@[simp] theorem emitSymbol_rd (y : Symbol) : (emitSymbol y s).rd = s.rd := rfl
@[simp] theorem emitSymbol_mem (y : Symbol) : (emitSymbol y s).mem = s.mem.write s.curbuf (wordOfIndex s.sidx.toNat) (putValue s s.curbuf s.sidx.toNat y) := rfl
@[simp] theorem emitSymbol_crc (y : Symbol) : (emitSymbol y s).crc = s.crc := rfl
@[simp] theorem emitSymbol_bidx (y : Symbol) : (emitSymbol y s).bidx = s.bidx := rfl
@[simp] theorem emitSymbol_sidx (y : Symbol) : (emitSymbol y s).sidx = s.sidx + 1 := rfl
@[simp] theorem emitSymbol_phase (y : Symbol) : (emitSymbol y s).phase = s.phase := rfl
@[simp] theorem emitSymbol_curbuf (y : Symbol) : (emitSymbol y s).curbuf = s.curbuf := rfl
@[simp] theorem emitSymbol_fault (y : Symbol) : (emitSymbol y s).fault = s.fault := rfl
@[simp] theorem emitSymbol_cause (y : Symbol) : (emitSymbol y s).cause = s.cause := rfl
@[simp] theorem emitSymbol_fcmd (y : Symbol) : (emitSymbol y s).fcmd = s.fcmd := rfl
@[simp] theorem emitSymbol_inputs (y : Symbol) : (emitSymbol y s).inputs = s.inputs := rfl
@[simp] theorem emitSymbol_out (y : Symbol) : (emitSymbol y s).out = s.out := rfl
@[simp] theorem emitSymbol_session (y : Symbol) : (emitSymbol y s).session = s.session := rfl
@[simp] theorem emitSymbol_draws (y : Symbol) : (emitSymbol y s).draws = s.draws := rfl

/-! ### `emitCoded` -/

@[simp] theorem emitCoded_params (c : Coded) : (emitCoded c s).params = s.params := rfl
@[simp] theorem emitCoded_p (c : Coded) : (emitCoded c s).p = s.p := rfl
@[simp] theorem emitCoded_rd (c : Coded) : (emitCoded c s).rd = c.next := rfl
@[simp] theorem emitCoded_mem (c : Coded) : (emitCoded c s).mem = (emitSymbol c.symbol s).mem := rfl
@[simp] theorem emitCoded_crc (c : Coded) : (emitCoded c s).crc = s.crc := rfl
@[simp] theorem emitCoded_bidx (c : Coded) : (emitCoded c s).bidx = s.bidx := rfl
@[simp] theorem emitCoded_sidx (c : Coded) : (emitCoded c s).sidx = s.sidx + 1 := rfl
@[simp] theorem emitCoded_phase (c : Coded) : (emitCoded c s).phase = s.phase := rfl
@[simp] theorem emitCoded_curbuf (c : Coded) : (emitCoded c s).curbuf = s.curbuf := rfl
@[simp] theorem emitCoded_fault (c : Coded) : (emitCoded c s).fault = s.fault := rfl
@[simp] theorem emitCoded_cause (c : Coded) : (emitCoded c s).cause = s.cause := rfl
@[simp] theorem emitCoded_fcmd (c : Coded) : (emitCoded c s).fcmd = s.fcmd := rfl
@[simp] theorem emitCoded_inputs (c : Coded) : (emitCoded c s).inputs = s.inputs := rfl
@[simp] theorem emitCoded_out (c : Coded) : (emitCoded c s).out = s.out := rfl
@[simp] theorem emitCoded_session (c : Coded) : (emitCoded c s).session = s.session := rfl
@[simp] theorem emitCoded_draws (c : Coded) : (emitCoded c s).draws = s.draws := rfl

/-! ### `emitData` -/

@[simp] theorem emitData_params (b : Byte) : (emitData b s).params = s.params := rfl
@[simp] theorem emitData_p (b : Byte) : (emitData b s).p = s.p := rfl
@[simp] theorem emitData_rd (b : Byte) : (emitData b s).rd = (encData s.params s.rd b).next := rfl
@[simp] theorem emitData_mem (b : Byte) : (emitData b s).mem = (emitSymbol (encData s.params s.rd b).symbol s).mem := rfl
@[simp] theorem emitData_crc (b : Byte) : (emitData b s).crc = s.crc := rfl
@[simp] theorem emitData_bidx (b : Byte) : (emitData b s).bidx = s.bidx := rfl
@[simp] theorem emitData_sidx (b : Byte) : (emitData b s).sidx = s.sidx + 1 := rfl
@[simp] theorem emitData_phase (b : Byte) : (emitData b s).phase = s.phase := rfl
@[simp] theorem emitData_curbuf (b : Byte) : (emitData b s).curbuf = s.curbuf := rfl
@[simp] theorem emitData_fault (b : Byte) : (emitData b s).fault = s.fault := rfl
@[simp] theorem emitData_cause (b : Byte) : (emitData b s).cause = s.cause := rfl
@[simp] theorem emitData_fcmd (b : Byte) : (emitData b s).fcmd = s.fcmd := rfl
@[simp] theorem emitData_inputs (b : Byte) : (emitData b s).inputs = s.inputs := rfl
@[simp] theorem emitData_out (b : Byte) : (emitData b s).out = s.out := rfl
@[simp] theorem emitData_session (b : Byte) : (emitData b s).session = s.session := rfl
@[simp] theorem emitData_draws (b : Byte) : (emitData b s).draws = s.draws := rfl

/-! ### `emitSync` -/

@[simp] theorem emitSync_params : (emitSync s).params = s.params := rfl
@[simp] theorem emitSync_p : (emitSync s).p = s.p := rfl
@[simp] theorem emitSync_rd : (emitSync s).rd = !s.rd := rfl
@[simp] theorem emitSync_mem : (emitSync s).mem = (emitSymbol (encSync s.rd).symbol s).mem := rfl
@[simp] theorem emitSync_crc : (emitSync s).crc = s.crc := rfl
@[simp] theorem emitSync_bidx : (emitSync s).bidx = s.bidx := rfl
@[simp] theorem emitSync_sidx : (emitSync s).sidx = s.sidx + 1 := rfl
@[simp] theorem emitSync_phase : (emitSync s).phase = s.phase := rfl
@[simp] theorem emitSync_curbuf : (emitSync s).curbuf = s.curbuf := rfl
@[simp] theorem emitSync_fault : (emitSync s).fault = s.fault := rfl
@[simp] theorem emitSync_cause : (emitSync s).cause = s.cause := rfl
@[simp] theorem emitSync_fcmd : (emitSync s).fcmd = s.fcmd := rfl
@[simp] theorem emitSync_inputs : (emitSync s).inputs = s.inputs := rfl
@[simp] theorem emitSync_out : (emitSync s).out = s.out := rfl
@[simp] theorem emitSync_session : (emitSync s).session = s.session := rfl
@[simp] theorem emitSync_draws : (emitSync s).draws = s.draws := rfl

/-! ### `pushByte` -/

@[simp] theorem pushByte_params (b : Byte) : (pushByte b s).params = s.params := rfl
@[simp] theorem pushByte_p (b : Byte) : (pushByte b s).p = (updateLane (laneOf s.bidx.toNat) b s).p := rfl
@[simp] theorem pushByte_rd (b : Byte) : (pushByte b s).rd = (encData s.params s.rd b).next := rfl
@[simp] theorem pushByte_mem (b : Byte) : (pushByte b s).mem = (emitSymbol (encData s.params s.rd b).symbol s).mem := rfl
@[simp] theorem pushByte_crc (b : Byte) : (pushByte b s).crc = s.crc := rfl
@[simp] theorem pushByte_bidx (b : Byte) : (pushByte b s).bidx = s.bidx + 1 := rfl
@[simp] theorem pushByte_sidx (b : Byte) : (pushByte b s).sidx = s.sidx + 1 := rfl
@[simp] theorem pushByte_phase (b : Byte) : (pushByte b s).phase = s.phase := rfl
@[simp] theorem pushByte_curbuf (b : Byte) : (pushByte b s).curbuf = s.curbuf := rfl
@[simp] theorem pushByte_fault (b : Byte) : (pushByte b s).fault = s.fault := rfl
@[simp] theorem pushByte_cause (b : Byte) : (pushByte b s).cause = s.cause := rfl
@[simp] theorem pushByte_fcmd (b : Byte) : (pushByte b s).fcmd = s.fcmd := rfl
@[simp] theorem pushByte_inputs (b : Byte) : (pushByte b s).inputs = s.inputs := rfl
@[simp] theorem pushByte_out (b : Byte) : (pushByte b s).out = s.out := rfl
@[simp] theorem pushByte_session (b : Byte) : (pushByte b s).session = s.session := rfl
@[simp] theorem pushByte_draws (b : Byte) : (pushByte b s).draws = s.draws := rfl

/-! ### `respond` -/

@[simp] theorem respond_params (v : Word) : (respond v s).params = s.params := rfl
@[simp] theorem respond_p (v : Word) : (respond v s).p = s.p := rfl
@[simp] theorem respond_rd (v : Word) : (respond v s).rd = s.rd := rfl
@[simp] theorem respond_mem (v : Word) : (respond v s).mem = s.mem := rfl
@[simp] theorem respond_crc (v : Word) : (respond v s).crc = s.crc := rfl
@[simp] theorem respond_bidx (v : Word) : (respond v s).bidx = s.bidx := rfl
@[simp] theorem respond_sidx (v : Word) : (respond v s).sidx = s.sidx := rfl
@[simp] theorem respond_phase (v : Word) : (respond v s).phase = s.phase := rfl
@[simp] theorem respond_curbuf (v : Word) : (respond v s).curbuf = s.curbuf := rfl
@[simp] theorem respond_fault (v : Word) : (respond v s).fault = s.fault := rfl
@[simp] theorem respond_cause (v : Word) : (respond v s).cause = s.cause := rfl
@[simp] theorem respond_fcmd (v : Word) : (respond v s).fcmd = s.fcmd := rfl
@[simp] theorem respond_inputs (v : Word) : (respond v s).inputs = s.inputs := rfl
@[simp] theorem respond_out (v : Word) : (respond v s).out = .response v s.fault := rfl
@[simp] theorem respond_session (v : Word) : (respond v s).session = s.session := rfl
@[simp] theorem respond_draws (v : Word) : (respond v s).draws = s.draws := rfl

/-! ### `raiseFault` -/

@[simp] theorem raiseFault_params (c : Cause) (w : Word) : (raiseFault c w s).params = s.params := rfl
@[simp] theorem raiseFault_p (c : Cause) (w : Word) : (raiseFault c w s).p = s.p := rfl
@[simp] theorem raiseFault_rd (c : Cause) (w : Word) : (raiseFault c w s).rd = s.rd := rfl
@[simp] theorem raiseFault_mem (c : Cause) (w : Word) : (raiseFault c w s).mem = s.mem := rfl
@[simp] theorem raiseFault_crc (c : Cause) (w : Word) : (raiseFault c w s).crc = s.crc := rfl
@[simp] theorem raiseFault_bidx (c : Cause) (w : Word) : (raiseFault c w s).bidx = s.bidx := rfl
@[simp] theorem raiseFault_sidx (c : Cause) (w : Word) : (raiseFault c w s).sidx = s.sidx := rfl
@[simp] theorem raiseFault_phase (c : Cause) (w : Word) : (raiseFault c w s).phase = s.phase := rfl
@[simp] theorem raiseFault_curbuf (c : Cause) (w : Word) : (raiseFault c w s).curbuf = s.curbuf := rfl
@[simp] theorem raiseFault_fault (c : Cause) (w : Word) : (raiseFault c w s).fault = true := rfl
@[simp] theorem raiseFault_cause (c : Cause) (w : Word) : (raiseFault c w s).cause = c := rfl
@[simp] theorem raiseFault_fcmd (c : Cause) (w : Word) : (raiseFault c w s).fcmd = w := rfl
@[simp] theorem raiseFault_inputs (c : Cause) (w : Word) : (raiseFault c w s).inputs = s.inputs := rfl
@[simp] theorem raiseFault_out (c : Cause) (w : Word) : (raiseFault c w s).out = .response 0 true := rfl
@[simp] theorem raiseFault_session (c : Cause) (w : Word) : (raiseFault c w s).session = s.session := rfl
@[simp] theorem raiseFault_draws (c : Cause) (w : Word) : (raiseFault c w s).draws = s.draws := rfl

/-! ### `ignoreCommand` -/

@[simp] theorem ignoreCommand_params : (ignoreCommand s).params = s.params := rfl
@[simp] theorem ignoreCommand_p : (ignoreCommand s).p = s.p := rfl
@[simp] theorem ignoreCommand_rd : (ignoreCommand s).rd = s.rd := rfl
@[simp] theorem ignoreCommand_mem : (ignoreCommand s).mem = s.mem := rfl
@[simp] theorem ignoreCommand_crc : (ignoreCommand s).crc = s.crc := rfl
@[simp] theorem ignoreCommand_bidx : (ignoreCommand s).bidx = s.bidx := rfl
@[simp] theorem ignoreCommand_sidx : (ignoreCommand s).sidx = s.sidx := rfl
@[simp] theorem ignoreCommand_phase : (ignoreCommand s).phase = s.phase := rfl
@[simp] theorem ignoreCommand_curbuf : (ignoreCommand s).curbuf = s.curbuf := rfl
@[simp] theorem ignoreCommand_fault : (ignoreCommand s).fault = s.fault := rfl
@[simp] theorem ignoreCommand_cause : (ignoreCommand s).cause = s.cause := rfl
@[simp] theorem ignoreCommand_fcmd : (ignoreCommand s).fcmd = s.fcmd := rfl
@[simp] theorem ignoreCommand_inputs : (ignoreCommand s).inputs = s.inputs := rfl
@[simp] theorem ignoreCommand_out : (ignoreCommand s).out = .response 0 true := rfl
@[simp] theorem ignoreCommand_session : (ignoreCommand s).session = s.session := rfl
@[simp] theorem ignoreCommand_draws : (ignoreCommand s).draws = s.draws := rfl

/-! ### `idleStep` -/

@[simp] theorem idleStep_params : (idleStep s).params = s.params := rfl
@[simp] theorem idleStep_p : (idleStep s).p = s.p := rfl
@[simp] theorem idleStep_rd : (idleStep s).rd = s.rd := rfl
@[simp] theorem idleStep_mem : (idleStep s).mem = s.mem := rfl
@[simp] theorem idleStep_crc : (idleStep s).crc = s.crc := rfl
@[simp] theorem idleStep_bidx : (idleStep s).bidx = s.bidx := rfl
@[simp] theorem idleStep_sidx : (idleStep s).sidx = s.sidx := rfl
@[simp] theorem idleStep_phase : (idleStep s).phase = s.phase := rfl
@[simp] theorem idleStep_curbuf : (idleStep s).curbuf = s.curbuf := rfl
@[simp] theorem idleStep_fault : (idleStep s).fault = s.fault := rfl
@[simp] theorem idleStep_cause : (idleStep s).cause = s.cause := rfl
@[simp] theorem idleStep_fcmd : (idleStep s).fcmd = s.fcmd := rfl
@[simp] theorem idleStep_inputs : (idleStep s).inputs = s.inputs := rfl
@[simp] theorem idleStep_out : (idleStep s).out = .silent := rfl
@[simp] theorem idleStep_session : (idleStep s).session = s.session := rfl
@[simp] theorem idleStep_draws : (idleStep s).draws = s.draws := rfl

end Sys2Proof.Machine
end

