-- ==== Sys2Proof/Laws/Memory.lean ====
section
/-! SUPPORT. The buffer words: what a write changes, and that every memory operation keeps the canonical form. -/

namespace Sys2Proof.Machine

theorem lookupWord_insertWord (l : List WordCell) (w w' : Nat) (v : Word) :
    lookupWord (insertWord l w v) w' = if w' = w then some v else lookupWord l w' := by
  induction l with
  | nil => simp [insertWord, lookupWord, eq_comm]
  | cons c rest ih =>
    unfold insertWord
    split
    · simp [lookupWord, eq_comm]
    · split
      · rename_i h; subst h; by_cases e : w' = c.1 <;> simp [lookupWord, e, eq_comm]
      · simp only [lookupWord, ih]; split <;> split <;> simp_all

theorem mem_insertWord (l : List WordCell) (w : Nat) (v : Word) (c : WordCell) :
    c ∈ insertWord l w v → c = (w, v) ∨ c ∈ l := by
  induction l with
  | nil => simp [insertWord]
  | cons d rest ih =>
    unfold insertWord
    split
    · simp
    · split
      · simp only [List.mem_cons]; rintro (h | h) <;> simp [h]
      · simp only [List.mem_cons]; rintro (h | h)
        · simp [h]
        · rcases ih h with h | h <;> simp [h]

/-- Setting a word below the bound keeps a buffer's list canonical. -/
theorem risingBelow_insertWord {n : Nat} {l : List WordCell} (hl : risingBelow n l) {w : Nat} (hw : w < n) (v : Word) :
    risingBelow n (insertWord l w v) := by
  refine ⟨?_, fun c hc => ?_⟩
  · induction l with
    | nil => simp [insertWord]
    | cons d rest ih =>
      obtain ⟨hp, hb⟩ := hl
      rw [List.pairwise_cons] at hp
      unfold insertWord
      split
      · rename_i h
        refine List.pairwise_cons.2 ⟨fun c hc => ?_, List.pairwise_cons.2 hp⟩
        rcases List.mem_cons.1 hc with rfl | hc
        · exact h
        · exact Nat.lt_trans h (hp.1 c hc)
      · split
        · rename_i h; exact List.pairwise_cons.2 ⟨fun c hc => by simpa [h] using hp.1 c hc, hp.2⟩
        · refine List.pairwise_cons.2
            ⟨fun c hc => ?_, ih ⟨hp.2, fun c hc => hb c (List.mem_cons_of_mem _ hc)⟩⟩
          rcases mem_insertWord _ _ _ _ hc with rfl | hc
          · simp; omega
          · exact hp.1 c hc
  · rcases mem_insertWord _ _ _ _ hc with rfl | hc
    · exact hw
    · exact hl.2 c hc

/-- Every write of a word that exists keeps the memory canonical. -/
theorem Memory.wf_write {n : Nat} {m : Memory} (hm : m.wf n) (b : Bool) {w : Nat} (hw : w < n) (v : Word) :
    (m.write b w v).wf n := by
  cases b
  · exact ⟨risingBelow_insertWord hm.1 hw v, hm.2⟩
  · exact ⟨hm.1, risingBelow_insertWord hm.2 hw v⟩

/-- The memory right after reset is canonical. -/
theorem resetWith_mem_wf (params : Params) (session n : Nat) : (State.resetWith params session).mem.wf n := by
  simp [State.resetWith, Memory.wf, risingBelow]

theorem lookupWord_write (m : Memory) (b b' : Bool) (w w' : Nat) (v : Word) :
    lookupWord ((m.write b w v).buffer b') w' =
      if b' = b ∧ w' = w then some v else lookupWord (m.buffer b') w' := by
  cases b <;> cases b' <;> simp [Memory.write, Memory.buffer, lookupWord_insertWord]

/-- Two states with the same memory and session read the same words. -/
theorem memRead_congr {s t : State} (hm : t.mem = s.mem) (hs : t.session = s.session) (b : Bool) (w : Nat) :
    memRead t b w = memRead s b w := by simp [memRead, hm, hs]

/-- What every word reads as once one word of the memory has been set. -/
theorem memRead_of_write {s t : State} {b : Bool} {w : Nat} {v : Word} (hm : t.mem = s.mem.write b w v)
    (hs : t.session = s.session) (b' : Bool) (w' : Nat) :
    memRead t b' w' = if b' = b ∧ w' = w then v else memRead s b' w' := by
  simp only [memRead, hm, hs, lookupWord_write]; split <;> simp

end Sys2Proof.Machine
end

