-- ==== Sys2Proof/Laws/Ops.lean ====
section
/-! SUPPORT. What each shared operation does, said once: the order of checks, a put symbol, the symbols of a list of
bytes. Later proofs cite these instead of unfolding the operations. -/

namespace Sys2Proof.Machine

/-! ### The order of checks -/

/-- Everything `runChecked` can do. -/
theorem runChecked_cases (w : Word) (why : Option Cause) (effect s : State) :
    (s.fault = true ∧ runChecked w why effect s = ignoreCommand s) ∨
    (∃ c, s.fault = false ∧ why = some c ∧ runChecked w why effect s = raiseFault c w s) ∨
    (s.fault = false ∧ why = none ∧ runChecked w why effect s = effect) := by
  unfold runChecked
  cases s.fault <;> cases why <;> simp

@[simp] theorem runChecked_of_fault {s : State} (h : s.fault = true) (w : Word) (why : Option Cause) (effect : State) :
    runChecked w why effect s = ignoreCommand s := by simp [runChecked, h]

@[simp] theorem runChecked_some {s : State} (h : s.fault = false) (w : Word) (c : Cause) (effect : State) :
    runChecked w (some c) effect s = raiseFault c w s := by simp [runChecked, h]

@[simp] theorem runChecked_none {s : State} (h : s.fault = false) (w : Word) (effect : State) :
    runChecked w none effect s = effect := by simp [runChecked, h]

/-- The cause of the first failing check is one of the three of R211. -/
theorem turnedAway_cause {a b c : Bool} {k : Cause} (h : turnedAway a b c = some k) :
    k = .illegal ∨ k = .seq ∨ k = .cap := by
  revert h; cases a <;> cases b <;> cases c <;> simp [turnedAway] <;> rintro rfl <;> simp

@[simp] theorem turnedAway_reserved (b c : Bool) : turnedAway true b c = some .illegal := rfl
@[simp] theorem turnedAway_outOfPhase (c : Bool) : turnedAway false true c = some .seq := rfl
@[simp] theorem turnedAway_overCapacity : turnedAway false false true = some .cap := rfl
@[simp] theorem turnedAway_accepted : turnedAway false false false = none := rfl

theorem inFrame_of_idle {s : State} (h : s.phase = .idle) : s.inFrame = false := by simp [State.inFrame, h]
theorem inFrame_of_inFrame {s : State} (h : s.phase = .inFrame) : s.inFrame = true := by simp [State.inFrame, h]
theorem isIdle_of_idle {s : State} (h : s.phase = .idle) : s.isIdle = true := by simp [State.isIdle, h]
theorem isIdle_of_inFrame {s : State} (h : s.phase = .inFrame) : s.isIdle = false := by simp [State.isIdle, h]

/-! ### Puts -/

/-- What every word reads as after `put_symbol`. -/
theorem memRead_putSymbol (s : State) (b b' : Bool) (i w' : Nat) (v : Symbol) :
    memRead (putSymbol b i v s) b' w' =
      if b' = b ∧ w' = wordOfIndex i then putValue s b i v else memRead s b' w' :=
  memRead_of_write (s := s) (putSymbol_mem s b i v) rfl b' w'

/-- What every word reads as after `emit_symbol`. -/
theorem memRead_emitSymbol (s : State) (y : Symbol) (b' : Bool) (w' : Nat) :
    memRead (emitSymbol y s) b' w' =
      if b' = s.curbuf ∧ w' = wordOfIndex s.sidx.toNat then putValue s s.curbuf s.sidx.toNat y else memRead s b' w' :=
  memRead_of_write (s := s) (emitSymbol_mem s y) rfl b' w'

/-- What every word reads as after a symbol is encoded and appended. -/
theorem memRead_emitCoded (s : State) (c : Coded) (b' : Bool) (w' : Nat) :
    memRead (emitCoded c s) b' w' =
      if b' = s.curbuf ∧ w' = wordOfIndex s.sidx.toNat then putValue s s.curbuf s.sidx.toNat c.symbol
      else memRead s b' w' :=
  memRead_of_write (s := s) (emitCoded_mem s c) rfl b' w'

/-- What every word reads as after `push_byte`. -/
theorem memRead_pushByte (s : State) (c : Byte) (b' : Bool) (w' : Nat) :
    memRead (pushByte c s) b' w' =
      if b' = s.curbuf ∧ w' = wordOfIndex s.sidx.toNat then
        putValue s s.curbuf s.sidx.toNat (encData s.params s.rd c).symbol
      else memRead s b' w' :=
  memRead_of_write (s := s) (pushByte_mem s c) rfl b' w'

/-! ### Lists of bytes -/

section
variable (bytes : List Byte) (s : State)

/-- `emitBytes` writes only the memory, `RD` and `SIDX`. -/
theorem emitBytes_frame :
    (emitBytes bytes s).params = s.params ∧ (emitBytes bytes s).p = s.p ∧ (emitBytes bytes s).crc = s.crc ∧
    (emitBytes bytes s).bidx = s.bidx ∧ (emitBytes bytes s).phase = s.phase ∧ (emitBytes bytes s).curbuf = s.curbuf ∧
    (emitBytes bytes s).fault = s.fault ∧ (emitBytes bytes s).cause = s.cause ∧ (emitBytes bytes s).fcmd = s.fcmd ∧
    (emitBytes bytes s).inputs = s.inputs ∧ (emitBytes bytes s).out = s.out ∧
    (emitBytes bytes s).session = s.session ∧ (emitBytes bytes s).draws = s.draws := by
  induction bytes generalizing s with
  | nil => simp [emitBytes]
  | cons b rest ih => simpa [emitBytes] using ih (emitData b s)

/-- `pushBytes` writes only the memory, `P`, `RD`, `SIDX` and `BIDX`. -/
theorem pushBytes_frame :
    (pushBytes bytes s).params = s.params ∧ (pushBytes bytes s).crc = s.crc ∧
    (pushBytes bytes s).phase = s.phase ∧ (pushBytes bytes s).curbuf = s.curbuf ∧
    (pushBytes bytes s).fault = s.fault ∧ (pushBytes bytes s).cause = s.cause ∧ (pushBytes bytes s).fcmd = s.fcmd ∧
    (pushBytes bytes s).inputs = s.inputs ∧ (pushBytes bytes s).out = s.out ∧
    (pushBytes bytes s).session = s.session ∧ (pushBytes bytes s).draws = s.draws := by
  induction bytes generalizing s with
  | nil => simp [pushBytes]
  | cons b rest ih => simpa [pushBytes] using ih (pushByte b s)

/-- `emitBytes` advances `SIDX` once a byte. -/
theorem emitBytes_sidx : (emitBytes bytes s).sidx = s.sidx + BitVec.ofNat 16 bytes.length := by
  induction bytes generalizing s with
  | nil => simp [emitBytes]
  | cons b rest ih =>
    rw [emitBytes, ih]; simp [BitVec.add_assoc, BitVec.ofNat_add, BitVec.add_comm 1#16]

/-- `pushBytes` advances `SIDX` and `BIDX` once a byte. -/
theorem pushBytes_indices :
    (pushBytes bytes s).sidx = s.sidx + BitVec.ofNat 16 bytes.length ∧
    (pushBytes bytes s).bidx = s.bidx + BitVec.ofNat 16 bytes.length := by
  induction bytes generalizing s with
  | nil => simp [pushBytes]
  | cons b rest ih =>
    rw [pushBytes]; obtain ⟨h1, h2⟩ := ih (pushByte b s)
    rw [h1, h2]; simp [BitVec.add_assoc, BitVec.ofNat_add, BitVec.add_comm 1#16]

end

@[simp] theorem length_crcBytes (params : Params) (v : Word) : (crcBytes params v).length = 4 := by
  unfold crcBytes; split <;> rfl

@[simp] theorem length_parityOrder (p : Vector Accumulator 3) : (parityOrder p).length = 96 := by
  simp [parityOrder]

end Sys2Proof.Machine
end

