-- ==== Sys2Proof/Laws/Exec.lean ====
section
/-! SUPPORT. What a command can do, said once: `exec_eq` puts every command but RD_STATUS into one shape (the order of
checks around an effect), `effectOf_frame` says what no effect touches, and `step_cases` lists what a step can be. -/

namespace Sys2Proof.Machine

/-- The state a command's rule gives when no check fails (R107 to R109, R133, R134, R154, R155, R172, R174, R176,
R200). -/
def effectOf (i : Instr) (s : State) : State :=
  match i with
  | .rsClear => respond 0 (clearLanes s)
  | .rsUpdate lane data8 => respond 0 (updateLane (laneOf lane.toNat) data8 s)
  | .rsRead lane pos => respond ((s.p[laneOf lane.toNat][pos.toNat]'pos.isLt).setWidth 32) s
  | .encByte data8 => respondCoded (encData s.params s.rd data8) s
  | .encSync => respondCoded (encSync s.rd) s
  | .putSym b idx sym => respond 0 (putSymbol b idx.toNat sym s)
  | .getSym b idx => respond ((getSymbol s b idx.toNat).setWidth 32) s
  | .frameBegin b ls => respond 0 (beginFrame b ls s)
  | .frameData data8 => respond ((encData s.params s.rd data8).symbol.setWidth 32) (dataByte data8 s)
  | .frameEnd last => respond ((endFrame last s).sidx.setWidth 32) (endFrame last s)
  | .rdStatus sel => respond (statusSelect sel (statusWord s) s.crc s.fcmd s.bidx) s

/-- The cause the checks of a command give: reserved, phase, capacity (R212). -/
def causeOf (i : Instr) (s : State) : Option Cause :=
  turnedAway (!i.wf) (!allowedIn i s.phase) (overCapacity i s)

theorem inFrame_eq (s : State) : s.inFrame = !(s.phase == .idle) := by cases h : s.phase <;> simp [State.inFrame, h]
theorem isIdle_eq (s : State) : s.isIdle = !(s.phase == .inFrame) := by cases h : s.phase <;> simp [State.isIdle, h]

theorem pastEnd_eq (s : State) (i : Index) : s.pastEnd i = decide (i.toNat ≥ 3 * s.params.bufWords) := rfl
theorem tailTooLong_eq (s : State) (last : Bool) :
    s.tailTooLong last = decide (s.sidx.toNat + 100 + last.toNat > 3 * s.params.bufWords) := rfl

theorem pastEnd_of_lt {s : State} {i : Index} (h : i.toNat < 3 * s.params.bufWords) : s.pastEnd i = false :=
  decide_eq_false (Nat.not_le.2 h)

theorem tailTooLong_of_le {s : State} {last : Bool} (h : s.sidx.toNat + 100 + last.toNat ≤ 3 * s.params.bufWords) :
    s.tailTooLong last = false :=
  decide_eq_false (Nat.not_lt.2 h)

/-- Every command but RD_STATUS is the order of checks around its effect (R212). -/
theorem exec_eq (i : Instr) (s : State) (h : isRdStatus i = false) :
    exec i s = .next (runChecked (encode i) (causeOf i s) (effectOf i s) s) := by
  cases i with
  | rsClear => simp [exec, execRsClear, effectOf, causeOf, Instr.wf, allowedIn, overCapacity, inFrame_eq]
  | rsUpdate lane data8 => simp [exec, execRsUpdate, effectOf, causeOf, Instr.wf, allowedIn, overCapacity, inFrame_eq, bne]
  | rsRead lane pos => simp [exec, execRsRead, effectOf, causeOf, Instr.wf, allowedIn, overCapacity, bne]
  | encByte data8 => simp [exec, execEncByte, effectOf, causeOf, Instr.wf, allowedIn, overCapacity, inFrame_eq]
  | encSync => simp [exec, execEncSync, effectOf, causeOf, Instr.wf, allowedIn, overCapacity, inFrame_eq]
  | putSym b idx sym => simp [exec, execPutSym, effectOf, causeOf, Instr.wf, allowedIn, overCapacity, inFrame_eq, pastEnd_eq]
  | getSym b idx => simp [exec, execGetSym, effectOf, causeOf, Instr.wf, allowedIn, overCapacity, pastEnd_eq]
  | frameBegin b ls => simp [exec, execFrameBegin, effectOf, causeOf, Instr.wf, allowedIn, overCapacity, inFrame_eq]
  | frameData data8 => simp [exec, execFrameData, effectOf, causeOf, Instr.wf, allowedIn, overCapacity, isIdle_eq, pastEnd_eq]
  | frameEnd last => simp [exec, execFrameEnd, effectOf, causeOf, Instr.wf, allowedIn, overCapacity, isIdle_eq, tailTooLong_eq]
  | rdStatus sel => simp [isRdStatus] at h

/-- RD_STATUS is its effect, whatever `FAULT` is (R200, R214). -/
theorem exec_rdStatus (sel : BitVec 2) (s : State) : exec (.rdStatus sel) s = .next (effectOf (.rdStatus sel) s) := rfl

/-- An optional comma changes only the memory, `RD` and `SIDX` (R176). -/
theorem optionalSync_frame (last : Bool) (t : State) :
    (if last then emitSync t else t).params = t.params ∧ (if last then emitSync t else t).p = t.p ∧
    (if last then emitSync t else t).crc = t.crc ∧ (if last then emitSync t else t).bidx = t.bidx ∧
    (if last then emitSync t else t).curbuf = t.curbuf ∧ (if last then emitSync t else t).fault = t.fault ∧
    (if last then emitSync t else t).cause = t.cause ∧ (if last then emitSync t else t).fcmd = t.fcmd ∧
    (if last then emitSync t else t).inputs = t.inputs ∧ (if last then emitSync t else t).session = t.session ∧
    (if last then emitSync t else t).draws = t.draws := by
  cases last <;> simp

/-- The parity and the trailing comma change only the memory, `RD` and `SIDX` (R176). The state after the parity is
held as a variable: a kernel that unfolds 96 emitted bytes runs out of time. -/
theorem appendTail_frame (last : Bool) (s : State) :
    (appendTail last s).params = s.params ∧ (appendTail last s).p = s.p ∧ (appendTail last s).crc = s.crc ∧
    (appendTail last s).bidx = s.bidx ∧ (appendTail last s).curbuf = s.curbuf ∧ (appendTail last s).fault = s.fault ∧
    (appendTail last s).cause = s.cause ∧ (appendTail last s).fcmd = s.fcmd ∧
    (appendTail last s).inputs = s.inputs ∧ (appendTail last s).session = s.session ∧
    (appendTail last s).draws = s.draws := by
  have e : appendTail last s =
    if last then emitSync (emitBytes (parityOrder s.p) s) else emitBytes (parityOrder s.p) s := rfl
  have he := emitBytes_frame (parityOrder s.p) s
  rw [e]
  generalize emitBytes (parityOrder s.p) s = t at he ⊢
  have ht := optionalSync_frame last t
  simp only [ht, he, and_self]

/-- FRAME_END's effect leaves these fields as they were (R176). -/
theorem endFrame_frame (last : Bool) (s : State) :
    (endFrame last s).params = s.params ∧ (endFrame last s).crc = s.crc ∧ (endFrame last s).curbuf = s.curbuf ∧
    (endFrame last s).fault = s.fault ∧ (endFrame last s).cause = s.cause ∧ (endFrame last s).fcmd = s.fcmd ∧
    (endFrame last s).inputs = s.inputs ∧ (endFrame last s).session = s.session ∧
    (endFrame last s).draws = s.draws := by
  have hp := pushBytes_frame (crcBytes s.params (s.crc ^^^ crcXorOut)) s
  rw [← pushCrc] at hp
  have he := appendTail_frame last (pushCrc s)
  unfold endFrame
  generalize appendTail last (pushCrc s) = t at he ⊢
  generalize pushCrc s = u at hp he
  simp [he, hp]

/-- What no effect touches, and that every effect answers once with `flt` the value of `FAULT` (R77). -/
theorem effectOf_frame (i : Instr) (s : State) :
    (effectOf i s).params = s.params ∧ (effectOf i s).fault = s.fault ∧ (effectOf i s).cause = s.cause ∧
    (effectOf i s).fcmd = s.fcmd ∧ (effectOf i s).inputs = s.inputs ∧ (effectOf i s).session = s.session ∧
    (effectOf i s).draws = s.draws ∧ ∃ rsp, (effectOf i s).out = .response rsp s.fault := by
  cases i with
  | frameBegin b ls => cases ls <;> simp [effectOf, beginFrame]
  | frameEnd last =>
    have h := endFrame_frame last s
    simp only [effectOf]
    generalize endFrame last s = t at h ⊢
    simp [h]
  | _ => simp [effectOf, respondCoded, dataByte]

/-- Everything a command can do. -/
theorem exec_cases (i : Instr) (s : State) :
    (s.fault = true ∧ isRdStatus i = false ∧ exec i s = .next (ignoreCommand s)) ∨
    (∃ c, s.fault = false ∧ isRdStatus i = false ∧ causeOf i s = some c ∧ exec i s = .next (raiseFault c (encode i) s)) ∨
    ((s.fault = false ∨ isRdStatus i = true) ∧ causeOf i s = none ∧ exec i s = .next (effectOf i s)) := by
  cases h : isRdStatus i
  · rw [exec_eq i s h]
    rcases runChecked_cases (encode i) (causeOf i s) (effectOf i s) s with ⟨h1, h2⟩ | ⟨c, h1, h2, h3⟩ | ⟨h1, h2, h3⟩
    · exact .inl ⟨h1, rfl, by rw [h2]⟩
    · exact .inr (.inl ⟨c, h1, rfl, h2, by rw [h3]⟩)
    · exact .inr (.inr ⟨.inl h1, h2, by rw [h3]⟩)
  · cases i <;> first | (simp [isRdStatus] at h; done) | exact .inr (.inr ⟨.inr rfl, rfl, rfl⟩)

/-- Everything a step can be, by what stands first at the ports. -/
theorem step_cases (s : State) :
    (s.inputs = [] ∧ step s = .next (idleStep s)) ∨
    (∃ w rest, s.inputs = .command w :: rest ∧ step s = runWord w { s with inputs := rest }) ∨
    (∃ rest, s.inputs = .reset :: rest ∧ step s = .next (restart { s with inputs := rest })) ∨
    (∃ b w rest, s.inputs = .outsideRead b w :: rest ∧ step s = outsideRead b w.toNat { s with inputs := rest }) := by
  rcases h : s.inputs with _ | ⟨x, rest⟩
  · exact .inl ⟨rfl, by simp [step, takeInput, h]⟩
  · cases x with
    | command w => exact .inr (.inl ⟨w, rest, rfl, by simp [step, takeInput, h]⟩)
    | reset => exact .inr (.inr (.inl ⟨rest, rfl, by simp [step, takeInput, h]⟩))
    | outsideRead b w => exact .inr (.inr (.inr ⟨b, w, rest, rfl, by simp [step, takeInput, h]⟩))

/-- What a word that decodes does, and what a reserved word does. -/
theorem runWord_cases (w : Word) (s : State) :
    (∃ i, decode w = .command i ∧ runWord w s = exec i s) ∨
    (∃ why, decode w = .reserved why ∧ runWord w s = .next (reservedWord w s)) := by
  unfold runWord
  cases h : decode w with
  | command i => exact .inl ⟨i, rfl, rfl⟩
  | reserved why => exact .inr ⟨why, rfl, rfl⟩

/-- Everything an outside read can do. -/
theorem outsideRead_cases (b : Bool) (w : Nat) (s : State) :
    (s.params.bufWords ≤ w ∧ outsideRead b w s = .fault (.noSuchWord b w)) ∨
    (w < s.params.bufWords ∧ ∃ v n, outsideRead b w s = .next { s with out := .readData v, draws := n }) := by
  unfold outsideRead
  by_cases h : s.params.bufWords ≤ w
  · exact .inl ⟨h, by simp [h]⟩
  · refine .inr ⟨Nat.not_le.1 h, ?_⟩
    cases hr : racy s b
    · exact ⟨_, s.draws, by simp [h]; rfl⟩
    · exact ⟨_, _, by simp [h]; exact ⟨rfl, rfl⟩⟩

end Sys2Proof.Machine
end

