-- ==== Sys2Proof/Laws/Frame.lean ====
section
/-! SUPPORT. What appending symbols does to the current buffer: `HoldsSymbols` says what the buffer holds, and one lemma
per shared step of the pipeline says what it holds after (spec/43_frame_pipeline.md R173). -/

namespace Sys2Proof.Machine

/-! ### Packed words -/

/-- A packed word as the OR of its three shifted slots (R84, R150). -/
theorem pack_eq_or (a b c : Symbol) :
    (0#2 ++ a ++ b ++ c : Word) = c.setWidth 32 ||| (b.setWidth 32 <<< 10) ||| (a.setWidth 32 <<< 20) := by
  apply BitVec.eq_of_getLsbD_eq
  intro k hk
  simp only [BitVec.getLsbD_append]
  interval_cases k <;> simp

/-- The word that takes the next symbol: its old content ORed with the symbol, as `put_symbol` does it (R150). -/
theorem packedWord_concat (ys : List Symbol) (y : Symbol) :
    packedWord (ys ++ [y]) (ys.length / 3) =
      (if ys.length % 3 = 0 then 0 else packedWord ys (ys.length / 3)) |||
        (y.setWidth 32 <<< (10 * (ys.length % 3))) := by
  obtain ⟨q, r, hr, hlen⟩ : ∃ q r, r < 3 ∧ ys.length = 3 * q + r :=
    ⟨ys.length / 3, ys.length % 3, Nat.mod_lt _ (by decide), (Nat.div_add_mod _ _).symm⟩
  have hq : ys.length / 3 = q := by omega
  have hm : ys.length % 3 = r := by omega
  rw [hq, hm]
  unfold packedWord
  rw [pack_eq_or, pack_eq_or]
  have hget : ∀ k, (ys ++ [y]).getD k 0 = if k < ys.length then ys.getD k 0 else if k = ys.length then y else 0 := by
    intro k
    simp only [List.getD_eq_getElem?_getD, List.getElem?_append]
    split
    · rfl
    · split
      · simp_all
      · rw [List.getElem?_eq_none (by simp; omega)]; rfl
  simp only [hget, hlen]
  interval_cases r <;> simp [hlen]

/-- A word that is full keeps its content when a symbol is appended (R51). -/
theorem packedWord_append_of_le (ys zs : List Symbol) (w : Nat) (h : 3 * w + 3 ≤ ys.length) :
    packedWord (ys ++ zs) w = packedWord ys w := by
  unfold packedWord
  simp only [List.getD_eq_getElem?_getD]
  rw [List.getElem?_append_left (by omega), List.getElem?_append_left (by omega), List.getElem?_append_left (by omega)]

/-! ### Streams -/

section
variable (params : Params)

theorem streamSymbols_append (s : Bool) (xs zs : List LineInput) :
    streamSymbols params s (xs ++ zs) = streamSymbols params s xs ++ streamSymbols params (streamState params s xs) zs := by
  induction xs generalizing s with
  | nil => rfl
  | cons x rest ih => simp [streamSymbols, streamState, ih]

theorem streamState_append (s : Bool) (xs zs : List LineInput) :
    streamState params s (xs ++ zs) = streamState params (streamState params s xs) zs := by
  induction xs generalizing s with
  | nil => rfl
  | cons x rest ih => simp [streamState, ih]

@[simp] theorem length_streamSymbols (s : Bool) (xs : List LineInput) : (streamSymbols params s xs).length = xs.length := by
  induction xs generalizing s with
  | nil => rfl
  | cons x rest ih => simp [streamSymbols, ih]

end

/-! ### What the current buffer holds -/

/-- `SIDX` symbols have been put in the current buffer, and they are `ys`. -/
structure HoldsSymbols (s : State) (ys : List Symbol) : Prop where
  count : s.sidx.toNat = ys.length
  words : ∀ w, 3 * w < ys.length → memRead s s.curbuf w = packedWord ys w

/-- Appending a symbol that fits appends it to what the buffer holds, and writes one word (R173). -/
theorem HoldsSymbols.emitCoded {s : State} {ys : List Symbol} (h : HoldsSymbols s ys) (c : Coded)
    (fits : ys.length < 65535) : HoldsSymbols (emitCoded c s) (ys ++ [c.symbol]) where
  count := by have := h.count; simp; omega
  words w hw := by
    have e := memRead_emitCoded s c s.curbuf w
    rw [show (Sys2Proof.Machine.emitCoded c s).curbuf = s.curbuf from rfl, e]
    simp only [List.length_append, List.length_singleton] at hw
    simp only [wordOfIndex, h.count, true_and]
    split
    · rename_i hw'
      rw [hw', packedWord_concat]
      simp only [putValue, putBase, offsetOfIndex, wordOfIndex]
      congr 1
      split
      · rfl
      · exact h.words _ (by omega)
    · rw [packedWord_append_of_le _ _ _ (by omega)]; exact h.words w (by omega)

/-- The same for an input of the line coder: the symbol of the stream, and the next state of the coder. -/
theorem HoldsSymbols.encodeOne {s : State} {ys : List Symbol} (h : HoldsSymbols s ys) (x : LineInput)
    (fits : ys.length < 65535) :
    HoldsSymbols (Sys2Proof.Machine.emitCoded (Sys2Proof.Machine.encodeOne s.params s.rd x) s)
      (ys ++ streamSymbols s.params s.rd [x]) := h.emitCoded _ fits

/-- `emitBytes` appends the stream of its bytes (R176). -/
theorem HoldsSymbols.emitBytes {s : State} {ys : List Symbol} (h : HoldsSymbols s ys) (bytes : List Byte)
    (fits : ys.length + bytes.length ≤ 65535) :
    HoldsSymbols (Sys2Proof.Machine.emitBytes bytes s) (ys ++ streamSymbols s.params s.rd (bytes.map .byte)) := by
  induction bytes generalizing s ys with
  | nil => simpa [Sys2Proof.Machine.emitBytes, streamSymbols] using h
  | cons b rest ih =>
    simp only [List.length_cons] at fits
    have h1 : HoldsSymbols (emitData b s) _ := h.emitCoded (encData s.params s.rd b) (by omega)
    have h2 := ih h1 (by simp; omega)
    simpa [Sys2Proof.Machine.emitBytes, streamSymbols, Sys2Proof.Machine.encodeOne] using h2

/-- The state of the line coder after `emitBytes` (R176). -/
theorem emitBytes_rd (bytes : List Byte) (s : State) :
    (emitBytes bytes s).rd = streamState s.params s.rd (bytes.map .byte) := by
  induction bytes generalizing s with
  | nil => rfl
  | cons b rest ih => rw [emitBytes, ih]; simp [streamState, encodeOne]

/-- `push_byte` appends the symbol of its byte (R173). -/
theorem HoldsSymbols.pushByte {s : State} {ys : List Symbol} (h : HoldsSymbols s ys) (b : Byte)
    (fits : ys.length < 65535) :
    HoldsSymbols (Sys2Proof.Machine.pushByte b s) (ys ++ [(encData s.params s.rd b).symbol]) :=
  have h1 := h.emitCoded (encData s.params s.rd b) fits
  ⟨h1.count, h1.words⟩

/-- `pushBytes` appends the stream of its bytes (R173). -/
theorem HoldsSymbols.pushBytes {s : State} {ys : List Symbol} (h : HoldsSymbols s ys) (bytes : List Byte)
    (fits : ys.length + bytes.length ≤ 65535) :
    HoldsSymbols (Sys2Proof.Machine.pushBytes bytes s) (ys ++ streamSymbols s.params s.rd (bytes.map .byte)) := by
  induction bytes generalizing s ys with
  | nil => simpa [Sys2Proof.Machine.pushBytes, streamSymbols] using h
  | cons b rest ih =>
    simp only [List.length_cons] at fits
    have h2 := ih (h.pushByte b (by omega)) (by simp; omega)
    simpa [Sys2Proof.Machine.pushBytes, streamSymbols, Sys2Proof.Machine.encodeOne] using h2

/-- The state of the line coder after `pushBytes` (R173). -/
theorem pushBytes_rd (bytes : List Byte) (s : State) :
    (pushBytes bytes s).rd = streamState s.params s.rd (bytes.map .byte) := by
  induction bytes generalizing s with
  | nil => rfl
  | cons b rest ih => rw [pushBytes, ih]; simp [streamState, encodeOne]

/-! ### What stays -/

/-- `emitBytes` leaves every word of both buffers before the first new symbol's and after the last one's (R173). -/
theorem emitBytes_other (bytes : List Byte) (s : State) (fits : s.sidx.toNat + bytes.length ≤ 65535) (b : Bool) (w : Nat)
    (h : ¬ (b = s.curbuf ∧ wordOfIndex s.sidx.toNat ≤ w ∧ w ≤ wordOfIndex (s.sidx.toNat + bytes.length - 1))) :
    memRead (emitBytes bytes s) b w = memRead s b w := by
  induction bytes generalizing s with
  | nil => rfl
  | cons c rest ih =>
    simp only [List.length_cons] at fits h
    have hs : (emitData c s).sidx.toNat = s.sidx.toNat + 1 := by simp; omega
    rw [emitBytes, ih (emitData c s) (by omega)]
    · rw [show memRead (emitData c s) b w = _ from memRead_emitCoded s (encData s.params s.rd c) b w, if_neg]
      rintro ⟨rfl, rfl⟩
      exact h ⟨rfl, Nat.le_refl _, by simp only [wordOfIndex]; omega⟩
    · rintro ⟨h1, h2, h3⟩
      refine h ⟨h1, ?_, ?_⟩ <;> simp only [wordOfIndex, hs] at * <;> omega

/-- `pushBytes` leaves every word of both buffers before the first new symbol's and after the last one's (R173). -/
theorem pushBytes_other (bytes : List Byte) (s : State) (fits : s.sidx.toNat + bytes.length ≤ 65535) (b : Bool) (w : Nat)
    (h : ¬ (b = s.curbuf ∧ wordOfIndex s.sidx.toNat ≤ w ∧ w ≤ wordOfIndex (s.sidx.toNat + bytes.length - 1))) :
    memRead (pushBytes bytes s) b w = memRead s b w := by
  induction bytes generalizing s with
  | nil => rfl
  | cons c rest ih =>
    simp only [List.length_cons] at fits h
    have hs : (pushByte c s).sidx.toNat = s.sidx.toNat + 1 := by simp; omega
    rw [pushBytes, ih (pushByte c s) (by omega)]
    · rw [memRead_pushByte, if_neg]
      rintro ⟨rfl, rfl⟩
      exact h ⟨rfl, Nat.le_refl _, by simp only [wordOfIndex]; omega⟩
    · rintro ⟨h1, h2, h3⟩
      refine h ⟨h1, ?_, ?_⟩ <;> simp only [wordOfIndex, hs] at * <;> omega

/-! ### Canonical memory -/

/-- `emitBytes` keeps the memory canonical when its symbols fit. -/
theorem emitBytes_wf (bytes : List Byte) (s : State) (hm : s.mem.wf s.params.bufWords)
    (fits : s.sidx.toNat + bytes.length ≤ 3 * s.params.bufWords) : (emitBytes bytes s).mem.wf s.params.bufWords := by
  induction bytes generalizing s with
  | nil => exact hm
  | cons c rest ih =>
    simp only [List.length_cons] at fits
    have := s.params.bufWords_le
    have hs : (emitData c s).sidx.toNat = s.sidx.toNat + 1 := by simp; omega
    have hw : wordOfIndex s.sidx.toNat < s.params.bufWords := by simp only [wordOfIndex]; omega
    exact ih (emitData c s) (Memory.wf_write hm _ hw _) (by rw [hs, emitData_params]; omega)

/-- `pushBytes` keeps the memory canonical when its symbols fit. -/
theorem pushBytes_wf (bytes : List Byte) (s : State) (hm : s.mem.wf s.params.bufWords)
    (fits : s.sidx.toNat + bytes.length ≤ 3 * s.params.bufWords) : (pushBytes bytes s).mem.wf s.params.bufWords := by
  induction bytes generalizing s with
  | nil => exact hm
  | cons c rest ih =>
    simp only [List.length_cons] at fits
    have := s.params.bufWords_le
    have hs : (pushByte c s).sidx.toNat = s.sidx.toNat + 1 := by simp; omega
    have hw : wordOfIndex s.sidx.toNat < s.params.bufWords := by simp only [wordOfIndex]; omega
    exact ih (pushByte c s) (Memory.wf_write (m := s.mem) hm s.curbuf hw _) (by rw [hs, pushByte_params]; omega)

/-! ### The lanes -/

/-- `pushBytes` gives each lane its share of the bytes, from byte number `BIDX` on (R106, R173). -/
theorem pushBytes_p (bytes : List Byte) (s : State) (l : Lane) (fits : s.bidx.toNat + bytes.length ≤ 65535) :
    (pushBytes bytes s).p[l] = (laneBytes l s.bidx.toNat bytes).foldl (rsUpdate s.params) s.p[l] := by
  induction bytes generalizing s with
  | nil => rfl
  | cons c rest ih =>
    simp only [List.length_cons] at fits
    have hb : (pushByte c s).bidx.toNat = s.bidx.toNat + 1 := by simp; omega
    rw [pushBytes, ih (pushByte c s) (by omega), hb, pushByte_params]
    have hp : (pushByte c s).p[l] = if s.bidx.toNat % 3 = l.val then rsUpdate s.params s.p[l] c else s.p[l] := by
      simp only [pushByte_p, updateLane, setLane, laneOf, Fin.getElem_fin, Vector.getElem_set]
      split
      · rename_i h; simp [h]
      · rfl
    rw [hp]
    simp only [laneBytes, List.zipIdx_cons, List.filter_cons, beq_iff_eq]
    split <;> simp

/-! ### FRAME_END -/

/-- The optional trailing comma (R176). -/
theorem HoldsSymbols.optionalSync {s : State} {ys : List Symbol} (h : HoldsSymbols s ys) (last : Bool)
    (fits : ys.length + last.toNat ≤ 65535) :
    HoldsSymbols (if last then emitSync s else s) (ys ++ streamSymbols s.params s.rd (optionalComma last)) := by
  cases last
  · simpa [optionalComma, streamSymbols] using h
  · simp only [Bool.toNat_true] at fits
    exact h.emitCoded (encSync s.rd) (by omega)

/-- What the current buffer holds after FRAME_END's effect: the CRC bytes, the parity they leave and the optional comma
are appended as one stream (R85, R176). -/
theorem HoldsSymbols.endFrame {s : State} {ys : List Symbol} (h : HoldsSymbols s ys) (last : Bool)
    (fits : ys.length + 100 + last.toNat ≤ 65535) :
    HoldsSymbols (Sys2Proof.Machine.endFrame last s)
      (ys ++ streamSymbols s.params s.rd
        (frameTail (crcBytes s.params (s.crc ^^^ crcXorOut)) (pushCrc s).p last)) := by
  have h1 : HoldsSymbols (pushCrc s) _ := h.pushBytes (crcBytes s.params (s.crc ^^^ crcXorOut)) (by simp; omega)
  have r1 : (pushCrc s).rd = _ := pushBytes_rd (crcBytes s.params (s.crc ^^^ crcXorOut)) s
  have f1 : (pushCrc s).params = s.params := (pushBytes_frame (crcBytes s.params (s.crc ^^^ crcXorOut)) s).1
  have h2 := h1.emitBytes (parityOrder (pushCrc s).p) (by simp; omega)
  have r2 := emitBytes_rd (parityOrder (pushCrc s).p) (pushCrc s)
  have f2 := (emitBytes_frame (parityOrder (pushCrc s).p) (pushCrc s)).1
  have e : appendTail last (pushCrc s) =
    if last then emitSync (Sys2Proof.Machine.emitBytes (parityOrder (pushCrc s).p) (pushCrc s))
    else Sys2Proof.Machine.emitBytes (parityOrder (pushCrc s).p) (pushCrc s) := rfl
  have e' : Sys2Proof.Machine.endFrame last s = { appendTail last (pushCrc s) with phase := .idle } := rfl
  rw [e', e]
  generalize Sys2Proof.Machine.emitBytes (parityOrder (pushCrc s).p) (pushCrc s) = t at h2 r2 f2 ⊢
  have h3 := h2.optionalSync last (by simp; omega)
  generalize pushCrc s = u at *
  rw [r2, r1, f2, f1] at h3
  simp only [frameTail, streamSymbols_append, List.append_assoc] at h3 ⊢
  exact ⟨h3.count, h3.words⟩

/-- The state of the line coder after FRAME_END's effect: after CRC bytes, parity and optional comma (R176). -/
theorem endFrame_rd (last : Bool) (s : State) :
    (endFrame last s).rd =
      streamState s.params s.rd (frameTail (crcBytes s.params (s.crc ^^^ crcXorOut)) (pushCrc s).p last) := by
  have r1 : (pushCrc s).rd = _ := pushBytes_rd (crcBytes s.params (s.crc ^^^ crcXorOut)) s
  have f1 : (pushCrc s).params = s.params := (pushBytes_frame (crcBytes s.params (s.crc ^^^ crcXorOut)) s).1
  have r2 := emitBytes_rd (parityOrder (pushCrc s).p) (pushCrc s)
  have e : (endFrame last s).rd =
    (if last then emitSync (emitBytes (parityOrder (pushCrc s).p) (pushCrc s))
      else emitBytes (parityOrder (pushCrc s).p) (pushCrc s)).rd := rfl
  rw [e]
  generalize emitBytes (parityOrder (pushCrc s).p) (pushCrc s) = t at r2 ⊢
  rw [r1, f1] at r2
  simp only [frameTail, streamState_append, ← r2]
  cases last
  · rfl
  · simp [optionalComma, streamState, encodeOne, encSync]

/-- What pushing the CRC bytes does to the indices and leaves as it was (R175, R176). -/
theorem pushCrc_frame (s : State) :
    (pushCrc s).params = s.params ∧ (pushCrc s).curbuf = s.curbuf ∧ (pushCrc s).sidx = s.sidx + 4 ∧
    (pushCrc s).bidx = s.bidx + 4 := by
  have h := pushBytes_frame (crcBytes s.params (s.crc ^^^ crcXorOut)) s
  have hi := pushBytes_indices (crcBytes s.params (s.crc ^^^ crcXorOut)) s
  rw [length_crcBytes] at hi
  exact ⟨h.1, h.2.2.2.1, hi.1, hi.2⟩

/-- `BIDX`, `SIDX` and the accumulators after FRAME_END's effect (R176). -/
theorem endFrame_registers (last : Bool) (s : State) :
    (endFrame last s).p = (pushCrc s).p ∧ (endFrame last s).bidx = s.bidx + 4 ∧
    (endFrame last s).sidx = s.sidx + (if last then 101 else 100) := by
  have h := appendTail_frame last (pushCrc s)
  have hc := pushCrc_frame s
  have hs := emitBytes_sidx (parityOrder (pushCrc s).p) (pushCrc s)
  rw [length_parityOrder] at hs
  have e : (appendTail last (pushCrc s)).sidx =
    (if last then emitSync (emitBytes (parityOrder (pushCrc s).p) (pushCrc s))
      else emitBytes (parityOrder (pushCrc s).p) (pushCrc s)).sidx := rfl
  generalize emitBytes (parityOrder (pushCrc s).p) (pushCrc s) = t at hs e
  unfold endFrame
  generalize appendTail last (pushCrc s) = u at h e
  refine ⟨h.2.1, h.2.2.2.1.trans hc.2.2.2, ?_⟩
  change u.sidx = _
  rw [e]
  cases last
  · simp [hs, hc, BitVec.add_assoc]
  · simp [hs, hc, BitVec.add_assoc]

/-- FRAME_END's effect leaves every word of both buffers before its first symbol's and after its last one's (R176). -/
theorem endFrame_other (last : Bool) (s : State) (fits : s.sidx.toNat + 100 + last.toNat ≤ 65535) (b : Bool) (w : Nat)
    (h : ¬ (b = s.curbuf ∧ wordOfIndex s.sidx.toNat ≤ w ∧ w ≤ wordOfIndex (s.sidx.toNat + 99 + last.toNat))) :
    memRead (endFrame last s) b w = memRead s b w := by
  have hc := pushCrc_frame s
  have h4 : (pushCrc s).sidx.toNat = s.sidx.toNat + 4 := by rw [hc.2.2.1]; simp; omega
  have h1 : memRead (pushCrc s) b w = memRead s b w :=
    pushBytes_other _ s (by simp; omega) b w (by
      rintro ⟨rfl, h2, h3⟩; refine h ⟨rfl, h2, ?_⟩; simp only [wordOfIndex, length_crcBytes] at *; omega)
  have h2 : memRead (emitBytes (parityOrder (pushCrc s).p) (pushCrc s)) b w = memRead (pushCrc s) b w :=
    emitBytes_other _ (pushCrc s) (by rw [h4]; simp; omega) b w (by
      rw [hc.2.1, h4]
      rintro ⟨rfl, h2, h3⟩
      refine h ⟨rfl, ?_, ?_⟩ <;> simp only [wordOfIndex, length_parityOrder] at * <;> omega)
  have hs := emitBytes_sidx (parityOrder (pushCrc s).p) (pushCrc s)
  have hb := (emitBytes_frame (parityOrder (pushCrc s).p) (pushCrc s)).2.2.2.2.2.1
  have e : memRead (endFrame last s) b w =
    memRead (if last then emitSync (emitBytes (parityOrder (pushCrc s).p) (pushCrc s))
      else emitBytes (parityOrder (pushCrc s).p) (pushCrc s)) b w := rfl
  rw [e, ← h1, ← h2]
  rw [length_parityOrder] at hs
  generalize emitBytes (parityOrder (pushCrc s).p) (pushCrc s) = t at hs hb ⊢
  cases last
  · rfl
  · simp only [if_true]
    have ht : t.sidx.toNat = s.sidx.toNat + 100 := by
      rw [hs, hc.2.2.1]; simp at fits ⊢; omega
    rw [show memRead (emitSync t) b w = _ from memRead_emitCoded t (encSync t.rd) b w, if_neg]
    rw [hb, hc.2.1, ht]
    rintro ⟨rfl, rfl⟩
    exact h ⟨rfl, by simp only [wordOfIndex]; omega, by simp [wordOfIndex]⟩

/-- FRAME_END's effect keeps the memory canonical when its symbols fit. -/
theorem endFrame_wf (last : Bool) (s : State) (hm : s.mem.wf s.params.bufWords)
    (fits : s.sidx.toNat + 100 + last.toNat ≤ 3 * s.params.bufWords) :
    (endFrame last s).mem.wf s.params.bufWords := by
  have hc := pushCrc_frame s
  have hle := s.params.bufWords_le
  have h4 : (pushCrc s).sidx.toNat = s.sidx.toNat + 4 := by rw [hc.2.2.1]; simp; omega
  have h1 : (pushCrc s).mem.wf s.params.bufWords := pushBytes_wf _ s hm (by simp; omega)
  have h2 := emitBytes_wf (parityOrder (pushCrc s).p) (pushCrc s) (by rw [hc.1]; exact h1)
    (by rw [h4, hc.1]; simp; omega)
  have hs := emitBytes_sidx (parityOrder (pushCrc s).p) (pushCrc s)
  rw [length_parityOrder] at hs
  rw [hc.1] at h2
  have e : (endFrame last s).mem =
    (if last then emitSync (emitBytes (parityOrder (pushCrc s).p) (pushCrc s))
      else emitBytes (parityOrder (pushCrc s).p) (pushCrc s)).mem := rfl
  rw [e]
  generalize emitBytes (parityOrder (pushCrc s).p) (pushCrc s) = t at hs h2 ⊢
  cases last
  · exact h2
  · have ht : t.sidx.toNat = s.sidx.toNat + 100 := by
      rw [hs, hc.2.2.1]; simp at fits ⊢; omega
    simp only [Bool.toNat_true] at fits
    exact Memory.wf_write (m := t.mem) h2 t.curbuf (by rw [ht]; simp only [wordOfIndex]; omega) _

end Sys2Proof.Machine
end

