-- ==== Sys2Proof/Laws/PerInstr.lean ====
section
/-! SUPPORT. What holds of every command as syntax, one lemma per constructor: the word of a command fits the row of
the opcode map with its mnemonic (spec/30_encoding.md R74). -/

namespace Sys2Proof.Laws.EncodedWordFitsItsRow

/-- The word of the command fits the row of its mnemonic (R74), whatever its fields are, `LANE` = 3 included. -/
def Statement (i : Instr) : Prop := ∃ r ∈ opcodeMap, r.mnemonic = i.mnemonic ∧ encode i &&& r.mask = r.pattern

theorem rsClear : Statement (.rsClear) := by
  refine ⟨⟨"RS_CLEAR", 0x10000000, 0xFFFFFFFF⟩, by simp [opcodeMap], rfl, ?_⟩
  decide

theorem rsUpdate (lane : BitVec 2) (data8 : Byte) : Statement (.rsUpdate lane data8) := by
  refine ⟨⟨"RS_UPDATE", 0x20000000, 0xFFFFFC00⟩, by simp [opcodeMap], rfl, ?_⟩
  apply BitVec.eq_of_getLsbD_eq
  intro k hk
  interval_cases k <;> simp [encode]

theorem rsRead (lane : BitVec 2) (pos : BitVec 5) : Statement (.rsRead lane pos) := by
  refine ⟨⟨"RS_READ", 0x30000000, 0xFFFFFCE0⟩, by simp [opcodeMap], rfl, ?_⟩
  apply BitVec.eq_of_getLsbD_eq
  intro k hk
  interval_cases k <;> simp [encode]

theorem encByte (data8 : Byte) : Statement (.encByte data8) := by
  refine ⟨⟨"ENC_BYTE", 0x40000000, 0xFFFFFF00⟩, by simp [opcodeMap], rfl, ?_⟩
  apply BitVec.eq_of_getLsbD_eq
  intro k hk
  interval_cases k <;> simp [encode]

theorem encSync : Statement (.encSync) := by
  refine ⟨⟨"ENC_SYNC", 0x50000000, 0xFFFFFFFF⟩, by simp [opcodeMap], rfl, ?_⟩
  decide

theorem putSym (b : Bool) (idx : Index) (sym : Symbol) : Statement (.putSym b idx sym) := by
  refine ⟨⟨"PUT_SYM", 0x60000000, 0xF4000000⟩, by simp [opcodeMap], rfl, ?_⟩
  apply BitVec.eq_of_getLsbD_eq
  intro k hk
  interval_cases k <;> simp [encode]

theorem getSym (b : Bool) (idx : Index) : Statement (.getSym b idx) := by
  refine ⟨⟨"GET_SYM", 0x70000000, 0xF40003FF⟩, by simp [opcodeMap], rfl, ?_⟩
  apply BitVec.eq_of_getLsbD_eq
  intro k hk
  interval_cases k <;> simp [encode]

theorem frameBegin (b ls : Bool) : Statement (.frameBegin b ls) := by
  refine ⟨⟨"FRAME_BEGIN", 0x80000000, 0xF3FFFFFF⟩, by simp [opcodeMap], rfl, ?_⟩
  apply BitVec.eq_of_getLsbD_eq
  intro k hk
  interval_cases k <;> simp [encode]

theorem frameData (data8 : Byte) : Statement (.frameData data8) := by
  refine ⟨⟨"FRAME_DATA", 0x90000000, 0xFFFFFF00⟩, by simp [opcodeMap], rfl, ?_⟩
  apply BitVec.eq_of_getLsbD_eq
  intro k hk
  interval_cases k <;> simp [encode]

theorem frameEnd (last : Bool) : Statement (.frameEnd last) := by
  refine ⟨⟨"FRAME_END", 0xA0000000, 0xFBFFFFFF⟩, by simp [opcodeMap], rfl, ?_⟩
  apply BitVec.eq_of_getLsbD_eq
  intro k hk
  interval_cases k <;> simp [encode]

theorem rdStatus (sel : BitVec 2) : Statement (.rdStatus sel) := by
  refine ⟨⟨"RD_STATUS", 0xB0000000, 0xFFFFFFFC⟩, by simp [opcodeMap], rfl, ?_⟩
  apply BitVec.eq_of_getLsbD_eq
  intro k hk
  interval_cases k <;> simp [encode]

end Sys2Proof.Laws.EncodedWordFitsItsRow
end

