-- ==== Sys2Proof/Tests/Slice0.lean ====
section
/-! SUPPORT. Tests: the smoke test of `WellFormed`, a word written out for every command, one-step tests with the values
of spec/95_test_vectors.md (named V-… and P… there), and a witness for the hypotheses of every statement of
Sys2Proof/Certificates/Slice0/Obligations.lean. -/

namespace Sys2Proof.Tests

open Sys2Proof.Machine

/-! ### Helpers -/

/-- A block with the default tables and `BUF_WORDS` = 34 (P4, P6), right after reset. -/
def idle34 : State := State.resetWith (defaultParams 34 .little (by decide) (by decide)) 0

/-- The state a command leaves. -/
def after (i : Instr) (s : State) : State :=
  match exec i s with
  | .next t => t
  | _ => s

/-- The state a step on one input leaves. -/
def stepOn (x : Input) (s : State) : State :=
  match step { s with inputs := [x] } with
  | .next t => t
  | _ => s

/-- In a frame of buffer 0 begun with a leading sync (V-FR-1). -/
def frame34 : State := after (.frameBegin false true) idle34

/-- The block after a `Fault(SEQ)` by `FRAME_DATA 0x12` (P5). -/
def faulted34 : State := after (.frameData 0x12) idle34

/-! ### Well-formedness -/

/-- R75 (c): `LANE` = 3 is refused, 0 to 2 are not. -/
theorem test_wellFormed_lane :
    ¬ WellFormed (.rsUpdate 3 0x00) ∧ ¬ WellFormed (.rsRead 3 0) ∧ WellFormed (.rsUpdate 2 0xFF) ∧
    WellFormed (.rsRead 2 31) := by decide

/-! ### Decoding: words from spec/95_test_vectors.md, and bit by bit from the formats of R71 -/

theorem test_decode_rsClear : decode 0x10000000 = .command .rsClear := by decide
/-- `OP` 0010, `LANE` 01 at bits 9:8, `DATA8` at bits 7:0 (P1, command 3). -/
theorem test_decode_rsUpdate : decode 0b00100000000000000000000100000000 = .command (.rsUpdate 1 0x00) := by decide
/-- `OP` 0011, `LANE` 10, `POS` 11111 (V-RS-14). -/
theorem test_decode_rsRead : decode 0b00110000000000000000001000011111 = .command (.rsRead 2 31) := by decide
theorem test_decode_encByte : decode 0x400000FF = .command (.encByte 0xFF) := by decide
theorem test_decode_encSync : decode 0x50000000 = .command .encSync := by decide
/-- `OP` 0110, `B` 1 at bit 27, `IDX` at bits 25:10, `SYM` at bits 9:0 (P2, command 11). -/
theorem test_decode_putSym : decode 0b01101000000000000001000101001110 = .command (.putSym true 4 0x14E) := by decide
/-- `OP` 0111, `B` 0, `IDX` 100 (P4, command 9). -/
theorem test_decode_getSym : decode 0x70019000 = .command (.getSym false 100) := by decide
/-- `OP` 1000, `B` at bit 27, `FL` at bit 26 (V-FR-1; P4, command 4). -/
theorem test_decode_frameBegin :
    decode 0x84000000 = .command (.frameBegin false true) ∧ decode 0x88000000 = .command (.frameBegin true false) := by
  decide
theorem test_decode_frameData : decode 0x900000DE = .command (.frameData 0xDE) := by decide
theorem test_decode_frameEnd : decode 0xA4000000 = .command (.frameEnd true) := by decide
theorem test_decode_rdStatus : decode 0xB0000003 = .command (.rdStatus 3) := by decide

/-- The reserved words of 95_test_vectors.md: each kind of R75, and one must-be-zero bit of each format. -/
theorem test_decode_reserved :
    [0x00000000, 0xFFFFFFFF, 0xC0000000, 0xD0000000, 0xE0000000, 0xF0000000, 0x0FFFFFFF].map decode =
      List.replicate 7 (.reserved .opcode) ∧
    [0x10000001, 0x30000020, 0x40000100, 0x50000001, 0x64000000, 0x70000001, 0x84000001, 0xA8000000, 0xB0000004].map decode =
      List.replicate 9 (.reserved .mustBeZero) ∧
    decode 0x20000300 = .reserved .lane3 := by decide

/-- The words P1 to P6 print for these lines of assembler, and what an assembler refuses (R79). -/
theorem test_assemble :
    assemble "PUT_SYM" [1, 5, 0x305] = some [0x68001705] ∧
    assemble "FRAME" [0, 1, 1, 0xDE, 0xAD] = some [0x84000000, 0x900000DE, 0x900000AD, 0xA4000000] ∧
    assemble ".word" [0x20000300] = some [0x20000300] ∧ assemble "RS_UPDATE" [3, 0] = none ∧
    assemble "ENC_BYTE" [256] = none := by decide

/-! ### One step -/

/-- V-RS-10 and the example of R107. -/
theorem test_rsClear : (after .rsClear (after (.rsUpdate 0 0x01) idle34)).p[0][0] = 0x00 := by decide +kernel

/-- V-RS-2: `RS_UPDATE 0, 0x01` from zero leaves `RS_GEN[31]` down to `RS_GEN[0]`. -/
theorem test_rsUpdate :
    (after (.rsUpdate 0 0x01) idle34).p[0].toList.take 8 = [0x5B, 0x7F, 0x56, 0x10, 0x1E, 0x0D, 0xEB, 0x61] ∧
    (after (.rsUpdate 0 0x01) idle34).p[1] = zeroAccumulator := by decide +kernel

/-- V-RS-4: feedback 0 is a pure shift with 0x00 entering at index 31. -/
theorem test_rsUpdate_shift :
    (after (.rsUpdate 0 0x5B) (after (.rsUpdate 0 0x01) idle34)).p[0].toList.drop 28 = [0x7F, 0x5B, 0x01, 0x00] := by
  decide +kernel

/-- V-RS-12 and V-RS-15. -/
theorem test_rsRead :
    (after (.rsRead 0 0) (after (.rsUpdate 0 0x01) idle34)).out = .response 0x5B false ∧
    (stepOn (.command 0x20000300) idle34).fcmd = 0x20000300 := by decide +kernel

/-- V-LC-17, V-LC-18. -/
theorem test_encByte :
    (after (.encByte 0x03) idle34).out = .response 0x31B false ∧ (after (.encByte 0x03) idle34).rd = true ∧
    (after (.encByte 0xFF) { idle34 with rd := true }).out = .response 0x14E false := by decide +kernel

/-- V-LC-12, V-LC-13. -/
theorem test_encSync :
    (after .encSync idle34).out = .response 0x0FA false ∧
    (after .encSync (after .encSync idle34)).out = .response 0x305 false ∧ (after .encSync idle34).rd = true := by decide

/-- V-PK-1 to V-PK-3: slot 0 starts the word, the other slots are ORed in. -/
theorem test_putSym :
    memRead (after (.putSym false 4 0x155) (after (.putSym false 3 0x3FF) idle34)) false 1 = 0x000557FF ∧
    memRead (after (.putSym false 3 0x001) (after (.putSym false 4 0x155) (after (.putSym false 3 0x3FF) idle34))) false 1
      = 0x00000001 := by decide

/-- P4: index 102 is 3 x 34, one past the last. -/
theorem test_getSym :
    (after (.getSym false 4) (after (.putSym false 4 0x155) (after (.putSym false 3 0x3FF) idle34))).out =
      .response 0x155 false ∧
    statusWord (after (.getSym true 102) idle34) = 0xB0000000 := by decide

/-- V-FR-2: the status word and word 0 of the buffer. -/
theorem test_frameBegin :
    statusWord (after (.frameBegin true true) idle34) = 0x0E000001 ∧
    memRead (after (.frameBegin true true) idle34) true 0 = 0x000000FA := by decide

/-- V-FR-8. -/
theorem test_frameData :
    (after (.frameData 0xDE) frame34).out = .response 0x216 false ∧
    (after (.frameData 0xDE) frame34).crc = 0x4C96EFA1 ∧ memRead (after (.frameData 0xDE) frame34) false 0 = 0x000858FA ∧
    (after (.frameData 0xDE) frame34).p[0].toList.take 4 = [0xAD, 0x65, 0xE9, 0x5F] := by decide +kernel

/-- P4, frame A: 101 symbols, the last word with a zero slot. -/
theorem test_frameEnd :
    (after (.frameEnd false) frame34).out = .response 0x65 false ∧
    memRead (after (.frameEnd false) frame34) false 0 = 0x18B62CFA ∧
    memRead (after (.frameEnd false) frame34) false 33 = 0x00062D8B := by decide +kernel

/-- P6: one data byte and both syncs are one symbol too many for 34 words. -/
theorem test_frameEnd_capacity :
    statusWord (after (.frameEnd true) (after (.frameData 0x00) frame34)) = 0xBC000002 := by decide +kernel

/-- P5, commands 2 and 3. -/
theorem test_rdStatus :
    (after (.rdStatus 0) faulted34).out = .response 0xA0000000 true ∧
    (after (.rdStatus 3) faulted34).out = .response 0x90000012 true := by decide

/-- V-CRC-1, V-CRC-2 and the order of R175 for 0x2EC7FB52. -/
theorem test_crc :
    crcStep idle34.params 0xFFFFFFFF 0x01 = 0x5AFA20E4 ∧ crcStep idle34.params 0xFFFFFFFF 0x31 = 0x7C231048 ∧
    crcBytes idle34.params 0x2EC7FB52 = [0x2E, 0xC7, 0xFB, 0x52] := by decide

/-- V-GF-4 to V-GF-8. -/
theorem test_gfMul :
    gfMul idle34.params 0x02 0x80 = 0x87 ∧ gfMul idle34.params 0x80 0x80 = 0x7A ∧ gfMul idle34.params 0xFF 0xFF = 0xE0 ∧
    gfMul idle34.params 0x03 0x07 = 0x09 ∧ gfMul idle34.params 0xDE 0x5B = 0xAD := by decide +kernel

/-- V-LC-3, V-LC-7, V-LC-8: entries of both rows of the printed code table. -/
theorem test_encTable :
    [0x03, 0xEB, 0xF1].map (encEntry idle34.params false) = [0x71B, 0x74E, 0x637] ∧
    [0x03, 0xEB, 0xF1].map (encEntry idle34.params true) = [0x314, 0x348, 0x231] := by decide +kernel

/-! ### Witnesses: states and operands that meet all hypotheses of a statement, clause by clause -/

/-- The state with one input at the ports. -/
def withInput (x : Input) (s : State) : State := { s with inputs := [x] }

/-- The step on the input of this state is a next state. -/
abbrev stepsOn (s : State) : Prop := step s = .next (stepOn (s.inputs.headD .reset) s)

/-- In a frame, the next command being FRAME_DATA 0xDE. -/
def frameIn34 : State := withInput (.command 0x900000DE) frame34

theorem witness_DecodeOfEncodeIsTheCommand : WellFormed (.rsUpdate 2 0xFF) ∧ WellFormed (.putSym true 65535 0x3FF) := by
  decide
theorem witness_EncodeOfDecodeIsTheWord : decode 0x200002FF = .command (.rsUpdate 2 0xFF) := by decide
theorem witness_CommandOfARowExactlyWhenMaskAndMatch :
    (⟨"RS_UPDATE", 0x20000000, 0xFFFFFC00⟩ : Row) ∈ opcodeMap ∧ (0x20000300 : Word) &&& 0xFFFFFC00 = 0x20000000 ∧
    readRow 0x20000300 = .command (.rsUpdate 3 0x00) := by decide
theorem witness_ReservedWordsInFullRaiseIllegal :
    decode 0x20000300 = .reserved .lane3 ∧ (withInput (.command 0x20000300) frame34).fault = false ∧
    (withInput (.command 0x20000300) frame34).inputs = [.command 0x20000300] := by decide
theorem witness_AssemblerSpellsExactlyTheLegalCommands :
    assembleCommand "RS_READ" [2, 31] = some (.rsRead 2 31) ∧ WellFormed (.rsRead 2 31) ∧
    (Instr.rsRead 2 31).mnemonic = "RS_READ" ∧ operandsOf (.rsRead 2 31) = [2, 31] := by decide
theorem witness_StepRunsTheDecodedCommand :
    frameIn34.inputs = [.command 0x900000DE] ∧ decode 0x900000DE = .command (.frameData 0xDE) := by decide
theorem witness_EveryCommandIsAnsweredOnce : (withInput (.command 0xFFFFFFFF) faulted34).inputs = [.command 0xFFFFFFFF] :=
  rfl
theorem witness_IdleStepKeepsEveryRegister : frame34.inputs = [] := by decide
theorem witness_ResetGivesTheResetValues : (withInput .reset faulted34).inputs = [.reset] := rfl
/-- One state for each clause; 33 is the last word of 34, 34 the first that does not exist. -/
theorem witness_OutsideReadReturnsTheWord :
    (withInput (.outsideRead true 33) frame34).inputs = [.outsideRead true 33] ∧ (33 : BitVec 15).toNat < 34 ∧
    frame34.params.bufWords = 34 ∧ true ≠ frame34.curbuf ∧ idle34.phase = .idle ∧ frame34.phase = .inFrame ∧
    false = frame34.curbuf ∧ (34 : BitVec 15).toNat = frame34.params.bufWords := by decide
theorem witness_ParametersNeverChange : stepsOn (withInput (.command 0x10000000) idle34) := rfl
theorem witness_FaultedBlockOnlyReadsStatus :
    faulted34.fault = true ∧ decode 0xB0000003 = .command (.rdStatus 3) ∧
    (∀ sel, decode 0xB0000004 ≠ .command (.rdStatus sel)) ∧ (∀ sel, decode 0x50000000 ≠ .command (.rdStatus sel)) := by
  decide
theorem witness_OutOfPhaseRaisesSeq :
    WellFormed .rsClear ∧ frame34.fault = false ∧ allowedIn .rsClear frame34.phase = false ∧
    allowedIn .rsClear idle34.phase = true ∧ exec .rsClear idle34 = .next (after .rsClear idle34) ∧
    (after .rsClear { idle34 with cause := .seq }).cause = .seq := by
  refine ⟨rfl, rfl, rfl, rfl, rfl, rfl⟩
/-- 101 is the last index of 34 words, 102 the first past the end. -/
theorem witness_OverCapacityRaisesCap :
    WellFormed (.getSym true 102) ∧ idle34.fault = false ∧ allowedIn (.getSym true 102) idle34.phase = true ∧
    overCapacity (.getSym true 102) idle34 = true ∧ overCapacity (.getSym true 101) idle34 = false := by decide
theorem witness_FirstFailingCheckDecides :
    frameIn34.inputs = .command 0x900000DE :: [] ∧ { frame34 with inputs := [] } = { frameIn34 with inputs := [] } :=
  ⟨rfl, rfl⟩
theorem witness_FaultIsPrecise :
    stepsOn (withInput (.command 0x10000000) frame34) ∧ frame34.fault = false ∧
    (stepOn (.command 0x10000000) frame34).fault = true := by refine ⟨rfl, rfl, rfl⟩
theorem witness_FaultHoldsEverythingUntilReset :
    faulted34.fault = true ∧ stepsOn (withInput (.command 0x50000000) faulted34) ∧
    (withInput (.command 0x50000000) faulted34).inputs.head? ≠ some .reset ∧ stepsOn (withInput .reset faulted34) ∧
    (withInput .reset faulted34).inputs.head? = some .reset := by
  refine ⟨rfl, rfl, by decide, rfl, rfl⟩
theorem witness_RsClearZeroesTheAccumulators : idle34.fault = false ∧ idle34.phase = .idle := by decide
/-- The lanes 0 and 2, the ends of the range. -/
theorem witness_RsUpdateStepsOneLane :
    idle34.fault = false ∧ idle34.phase = .idle ∧ (0 : BitVec 2).toNat = (0 : Lane).val ∧
    (2 : BitVec 2).toNat = (2 : Lane).val := by decide
theorem witness_RsReadReturnsAParityByte :
    frame34.fault = false ∧ (0 : BitVec 2).toNat = (0 : Lane).val ∧ (2 : BitVec 2).toNat = (2 : Lane).val := by decide
theorem witness_ProductIsTheAntilogOfTheSumOfLogs : (0 : Byte) = 0 ∧ (1 : Byte) ≠ 0 ∧ (0xFF : Byte) ≠ 0 := by decide
theorem witness_LegalTablesMultiplyInTheField :
    LegalField idle34.params ∧ isFieldPoly idle34.params 0x187 :=
  ⟨default_legalField _ _ _ _, default_isFieldPoly _ _ _ _⟩
theorem witness_MessageThenParityIsACodeWord : LegalField idle34.params ∧ LegalGenerator idle34.params :=
  ⟨default_legalField _ _ _ _, default_legalGenerator _ _ _ _⟩
theorem witness_EncByteLooksUpTheTable :
    idle34.fault = false ∧ idle34.phase = .idle ∧
    0x1D4 = (idle34.params.encTable[idle34.rd.toNat]'(Bool.toNat_lt idle34.rd))[(0x01 : Byte).toNat] := by decide +kernel
theorem witness_EncSyncSendsTheCommaAndFlips : idle34.fault = false ∧ idle34.phase = .idle := by decide

/-- A code table whose every symbol is 0x155, the state being kept. -/
def flatParams : Params :=
  { idle34.params with encTable := ⟨#[Vector.replicate 256 0x155, Vector.replicate 256 0x555], rfl⟩ }

theorem witness_StreamsAreDcBalanced : BalancedTable flatParams := by
  have h0 (b : Byte) : encData flatParams false b = ⟨0x155, false⟩ := by simp [encData, encEntry, flatParams]
  have h1 (b : Byte) : encData flatParams true b = ⟨0x155, true⟩ := by simp [encData, encEntry, flatParams]
  intro s b
  cases s
  · exact .inl (by rw [h0]; decide)
  · exact .inl (by rw [h1]; decide)

/-- A code table in which the symbol of `b` is 0x100 + `b`, the state being kept. -/
def plainParams : Params :=
  { idle34.params with
    encTable := Vector.ofFn fun s => Vector.ofFn fun b => BitVec.ofNat 11 (1024 * s.val + 256 + b.val) }

theorem witness_TrackingDecoderRecoversTheStream : DecodableTable plainParams := by
  have h (s : Bool) (b : Byte) : (encData plainParams s b).symbol.toNat = 256 + b.toNat := by
    have hb : b.toNat < 256 := b.isLt
    cases s <;> simp [encData, encEntry, plainParams] <;> omega
  refine ⟨fun s b c e => ?_, fun s t b c e => ?_, fun s b => ⟨fun e => ?_, fun e => ?_⟩⟩ <;>
    have e' := congrArg BitVec.toNat e <;> rw [h] at e'
  · rw [h] at e'; exact BitVec.eq_of_toNat_eq (by omega)
  · rw [h] at e'; exact BitVec.eq_of_toNat_eq (by omega)
  · rw [show comma0.toNat = 250 by decide] at e'; omega
  · rw [show comma1.toNat = 773 by decide] at e'; have : b.toNat < 256 := b.isLt; omega

/-- The first and the last index of 34 words. -/
theorem witness_PutSymWritesOneWord :
    idle34.fault = false ∧ idle34.phase = .idle ∧ (0 : Index).toNat < 3 * idle34.params.bufWords ∧
    (101 : Index).toNat < 3 * idle34.params.bufWords := by decide
theorem witness_GetSymReadsOneSymbol :
    frame34.fault = false ∧ (0 : Index).toNat < 3 * frame34.params.bufWords ∧
    (101 : Index).toNat < 3 * frame34.params.bufWords := by decide
/-- Slot 0 put, then slot 2 of the same word; and slot 0 alone. -/
theorem witness_PackerRoundTripAfterTheZeroingPut :
    let puts : List (Bool × Nat × Symbol) := [(false, 4, 0x155), (false, 5, 0x2AA)]
    (∀ x ∈ puts, ¬ (x.1 = false ∧ x.2.1 = 3 * (5 / 3))) ∧
    ((false, 3 * (5 / 3), 0x001) :: puts).filter (fun x => x.1 == false && x.2.1 == 5) = [(false, 5, 0x2AA)] ∧
    ((false, 3 * (3 / 3), 0x001) :: puts).filter (fun x => x.1 == false && x.2.1 == 3) = [(false, 3, 0x001)] := by decide
theorem witness_FrameBeginStartsAFrame : idle34.fault = false ∧ idle34.phase = .idle := by decide
theorem witness_FrameDataPushesOneByte :
    frame34.fault = false ∧ frame34.phase = .inFrame ∧ frame34.sidx.toNat < 3 * frame34.params.bufWords ∧
    0x62B = (frame34.params.encTable[frame34.rd.toNat]'(Bool.toNat_lt frame34.rd))[(0x01 : Byte).toNat] := by decide +kernel
/-- The exact fit: 1 + 100 + 1 = 102 = 3 x 34. -/
theorem witness_FrameEndFinishesTheFrame :
    frame34.fault = false ∧ frame34.phase = .inFrame ∧ frame34.bidx.toNat ≤ frame34.sidx.toNat ∧
    frame34.sidx.toNat + 100 + true.toNat = 3 * frame34.params.bufWords ∧
    crcBytes frame34.params (frame34.crc ^^^ 0xFFFFFFFF) = [0, 0, 0, 0] := by decide
theorem witness_CrcBytesInWireOrder :
    idle34.params.crcByteOrder = .msbFirst ∧ { idle34.params with crcByteOrder := .lsbFirst }.crcByteOrder = .lsbFirst :=
  ⟨rfl, rfl⟩

theorem frameIn34_content : FrameContent frameIn34 true false [] where
  bytes := by decide
  symbols := by decide
  fits := by decide
  crc := by decide
  parity := by decide
  disparity := by decide
  words w hw := by
    have h1 : frameIn34.sidx.toNat = 1 := by decide
    obtain rfl : w = 0 := by omega
    decide

theorem witness_EveryStepKeepsTheFrameContent :
    FrameInvariant frameIn34 ∧ frameIn34.phase = .inFrame ∧ stepsOn frameIn34 :=
  ⟨fun _ => ⟨true, false, [], frameIn34_content⟩, by decide, rfl⟩
theorem witness_FinishedFrameHasTheFrameLayout :
    FrameContent frameIn34 true false [] ∧ frameIn34.fault = false ∧ frameIn34.phase = .inFrame ∧
    frameIn34.sidx.toNat + 100 + true.toNat = 3 * frameIn34.params.bufWords :=
  ⟨frameIn34_content, by decide, by decide, by decide⟩
/-- Commas at both ends and no data: the exact fit. -/
theorem witness_FrameCommandsProduceTheWholeFrame :
    let s := { idle34 with inputs := issued (frameCommands false true true []) ++ [] }
    s.fault = false ∧ s.phase = .idle ∧ true.toNat + ([] : List Byte).length + 100 + true.toNat = 3 * s.params.bufWords ∧
    s.inputs = [.command 0x84000000, .command 0xA4000000] := by decide
theorem witness_OnlyItsCommandsWriteARegister :
    exec (.encByte 0x03) idle34 = .next (after (.encByte 0x03) idle34) ∧ mayWriteP (.encByte 0x03) = false ∧
    mayWriteBuffer idle34 (.encByte 0x03) true = false ∧ mayWriteCrc (.encByte 0x03) = false ∧
    mayWriteIndices (.encByte 0x03) = false ∧ mayWriteRd (.frameBegin true false) = false ∧
    (after (.frameBegin true false) idle34).phase ≠ idle34.phase ∧
    (after (.frameBegin true false) idle34).curbuf ≠ idle34.curbuf := by
  refine ⟨rfl, rfl, rfl, rfl, rfl, rfl, by decide, by decide⟩
theorem witness_EveryStepKeepsTheSequencingInvariant : SequencingInvariant frameIn34 ∧ stepsOn frameIn34 :=
  ⟨⟨by decide, by decide, by decide, by decide, by decide, by decide⟩, rfl⟩
theorem witness_CommandsDependOnRegistersAlone :
    step { idle34 with inputs := .command 0x50000000 :: [] } = .next (stepOn (.command 0x50000000) idle34) := rfl

end Sys2Proof.Tests
end

section
/-! Proofs of the family `spec/00_scope.md`. -/

namespace Sys2Proof.Machine

/-- Settles O30 (R11): `memWrite` sets one word of the memory and keeps the session, from which the value of an
unwritten word is drawn; what every word then reads as is `memRead_of_write`. -/
theorem readAfterWrite : Obligations.ReadAfterWrite := by
  intro s b b' w w' v
  have hmem : (memWrite b w v s).mem = s.mem.write b w v := memWrite_mem s b w v
  have hsession : (memWrite b w v s).session = s.session := memWrite_session s b w v
  exact memRead_of_write hmem hsession b' w'

end Sys2Proof.Machine
end

section
/-! Proofs of the family `spec/10_state.md`. -/

namespace Sys2Proof.Machine

/-! ### What a step that goes on leaves -/

/-- RD_STATUS answers and writes no register (R200). -/
theorem effectOf_of_isRdStatus {i : Instr} (h : isRdStatus i = true) (s : State) :
    ∃ v, effectOf i s = respond v s := by
  cases i with
  | rdStatus sel => exact ⟨_, rfl⟩
  | _ => simp [isRdStatus] at h

/-- The kinds of next state, over everything that can stand at the ports: only the ports move; a fault is raised; the
block restarts; or, with no fault before, an accepted command has its effect. -/
inductive StepOutcome (s : State) : State → Prop where
  | quiet (ins : List Input) (o : Output) (n : Nat) (noReset : s.inputs.head? ≠ some .reset) :
      StepOutcome s { s with inputs := ins, out := o, draws := n }
  | faulted (c : Cause) (w : Word) (ins : List Input) (noReset : s.inputs.head? ≠ some .reset)
      (noFault : s.fault = false) (isCause : c ≠ .none) : StepOutcome s (raiseFault c w { s with inputs := ins })
  | restarted (ins : List Input) (isReset : s.inputs.head? = some .reset) :
      StepOutcome s (restart { s with inputs := ins })
  | executed (i : Instr) (ins : List Input) (noReset : s.inputs.head? ≠ some .reset) (noFault : s.fault = false)
      (accepted : causeOf i { s with inputs := ins } = none) : StepOutcome s (effectOf i { s with inputs := ins })

section
variable {s t : State} {rest : List Input} (noReset : s.inputs.head? ≠ some .reset)
include noReset

theorem exec_outcome {i : Instr} (h : exec i { s with inputs := rest } = .next t) : StepOutcome s t := by
  rcases exec_cases i { s with inputs := rest } with ⟨-, -, e⟩ | ⟨c, noFault, -, hc, e⟩ | ⟨hrun, accepted, e⟩ <;>
    rw [e] at h <;> cases h
  · exact .quiet rest _ s.draws noReset
  · exact .faulted c _ rest noReset noFault (by rintro rfl; simpa using turnedAway_cause hc)
  · rcases hrun with noFault | hsel
    · exact .executed i rest noReset noFault accepted
    · obtain ⟨v, e⟩ := effectOf_of_isRdStatus hsel { s with inputs := rest }
      rw [e]
      exact .quiet rest _ s.draws noReset

theorem reservedWord_outcome (w : Word) : StepOutcome s (reservedWord w { s with inputs := rest }) := by
  unfold reservedWord
  rcases runChecked_cases w (some .illegal) { s with inputs := rest } { s with inputs := rest } with
    ⟨-, e⟩ | ⟨c, noFault, hc, e⟩ | ⟨-, hc, -⟩
  · rw [e]; exact .quiet rest _ s.draws noReset
  · cases hc; rw [e]; exact .faulted .illegal w rest noReset noFault (by decide)
  · simp at hc

end

/-- Every step that goes on has one of the four outcomes. -/
theorem step_outcome {s t : State} (h : step s = .next t) : StepOutcome s t := by
  rcases step_cases s with ⟨hi, e⟩ | ⟨w, rest, hi, e⟩ | ⟨rest, hi, e⟩ | ⟨b, w, rest, hi, e⟩ <;> rw [e] at h
  case inl => cases h; exact .quiet s.inputs _ s.draws (by simp [hi])
  case inr.inl =>
    have noReset : s.inputs.head? ≠ some .reset := by simp [hi]
    rcases runWord_cases w { s with inputs := rest } with ⟨i, -, e⟩ | ⟨why, -, e⟩ <;> rw [e] at h
    · exact exec_outcome noReset h
    · cases h; exact reservedWord_outcome noReset w
  case inr.inr.inl => cases h; exact .restarted rest (by simp [hi])
  case inr.inr.inr =>
    rcases outsideRead_cases b w.toNat { s with inputs := rest } with ⟨-, e⟩ | ⟨-, v, n, e⟩ <;> rw [e] at h <;> cases h
    exact .quiet rest _ n (by simp [hi])

/-- A command is accepted exactly when none of the three checks fails (R212). -/
theorem causeOf_eq_none_iff (i : Instr) (s : State) :
    causeOf i s = none ↔ i.wf = true ∧ allowedIn i s.phase = true ∧ overCapacity i s = false := by
  unfold causeOf turnedAway
  cases i.wf <;> cases allowedIn i s.phase <;> cases overCapacity i s <;> simp

/-! ### Parameters, faults, reset -/

/-- Settles O13 (R33, R60): of the four outcomes of a step only an effect could touch the parameters, and none does. -/
theorem parametersNeverChange : Obligations.ParametersNeverChange := by
  intro s t h
  cases step_outcome h with
  | quiet | faulted | restarted => rfl
  | executed i ins => exact (effectOf_frame i _).1

/-- Settles O19 (R36 (e), R215): a faulted block has two outcomes left, only the ports moving and the restart. -/
theorem faultHoldsEverythingUntilReset : Obligations.FaultHoldsEverythingUntilReset := by
  intro s t h hf
  cases step_outcome h with
  | quiet ins o n noReset =>
    exact ⟨fun _ => ⟨rfl, rfl, rfl, rfl, rfl, rfl, rfl, rfl, rfl, rfl, rfl⟩, fun hr => absurd hr noReset⟩
  | restarted ins isReset => exact ⟨fun hr => absurd isReset hr, fun _ => ⟨rfl, rfl, rfl⟩⟩
  | faulted _ _ _ _ noFault => simp [hf] at noFault
  | executed _ _ _ noFault => simp [hf] at noFault

/-- The status word right after reset shows `RD` and nothing else (R32, R34). -/
theorem statusWord_resetWith (params : Params) (session : Nat) :
    statusWord (State.resetWith params session) = (BitVec.ofBool params.rdReset).setWidth 32 <<< 26 := by
  have hword : statusWord (State.resetWith params session) =
      0#1 ++ 0#3 ++ 0#1 ++ BitVec.ofBool params.rdReset ++ 0#1 ++ 0#9 ++ 0#16 := rfl
  rw [hword]
  cases params.rdReset <;> decide

/-- Settles O11 (R240, R34): the step on `rst` is `restart`, which is `State.resetWith` but for the ports; the status
word after reset has `RD` as its one free bit. -/
theorem resetGivesTheResetValues : Obligations.ResetGivesTheResetValues := by
  constructor
  · intro s rest hi
    have hstep : step s = .next (restart { s with inputs := rest }) := by simp [step, takeInput, hi]
    exact hstep
  · intro params
    exact ⟨rfl, rfl, rfl, rfl, statusWord_resetWith params 0⟩

/-- Bit `k` of the status word, as R32 lays its fields out. -/
theorem getLsbD_statusWord (s : State) {k : Nat} (hk : k < 32) :
    (statusWord s).getLsbD k =
      if k < 16 then s.sidx.getLsbD k
      else if k < 25 then false
      else if k < 26 then s.curbuf
      else if k < 27 then s.rd
      else if k < 28 then s.phase.bit
      else if k < 31 then s.cause.code.getLsbD (k - 28)
      else s.fault := by
  unfold statusWord
  simp only [BitVec.getLsbD_append, BitVec.getLsbD_ofBool, BitVec.getLsbD_zero]
  interval_cases k <;> rfl

/-- A field of the status word is compared bit by bit. -/
theorem extractLsb'_statusWord_eq (s : State) {lo n : Nat} {v : BitVec n}
    (h : ∀ k < n, (statusWord s).getLsbD (lo + k) = v.getLsbD k) : (statusWord s).extractLsb' lo n = v := by
  apply BitVec.eq_of_getLsbD_eq
  intro k hk
  rw [BitVec.getLsbD_extractLsb', h k hk]
  simp [hk]

/-- Settles O46 (R32, R200): bit by bit, from `getLsbD_statusWord`. -/
theorem statusWordFields : Obligations.StatusWordFields := by
  intro s
  refine ⟨getLsbD_statusWord s (by decide), ?cause, getLsbD_statusWord s (by decide), getLsbD_statusWord s (by decide),
    getLsbD_statusWord s (by decide), ?gap, ?sidx⟩
  case cause =>
    refine extractLsb'_statusWord_eq s fun k hk => ?_
    rw [getLsbD_statusWord s (by omega)]
    interval_cases k <;> rfl
  case gap =>
    refine extractLsb'_statusWord_eq s fun k hk => ?_
    rw [getLsbD_statusWord s (by omega)]
    interval_cases k <;> rfl
  case sidx =>
    refine extractLsb'_statusWord_eq s fun k hk => ?_
    rw [getLsbD_statusWord s (by omega)]
    simp [hk]

/-! ### The sequencing invariant -/

/-- The invariants of R36 (a) to (d) do not speak of `P`, `RD`, `CRC`, `CURBUF`, the ports and the counters. -/
theorem SequencingInvariant.with_others {s : State} (h : SequencingInvariant s) (p : Vector Accumulator 3) (rd : Bool)
    (crc : Word) (curbuf : Bool) (ins : List Input) (o : Output) (session n : Nat) :
    SequencingInvariant { s with
      p := p, rd := rd, crc := crc, curbuf := curbuf, inputs := ins, out := o, session := session, draws := n } := by
  obtain ⟨hbytes, hsymbols, hsync, hcause, hfcmd, hmem⟩ := h
  exact ⟨hbytes, hsymbols, hsync, hcause, hfcmd, hmem⟩

theorem SequencingInvariant.raiseFault {s : State} (h : SequencingInvariant s) {c : Cause} (hc : c ≠ .none) (w : Word) :
    SequencingInvariant (raiseFault c w s) where
  bytes_le_symbols := h.bytes_le_symbols
  symbols_fit := h.symbols_fit
  leading_sync := h.leading_sync
  cause_fault := by simp [hc]
  fcmd_clear hf := by simp at hf
  memory_wf := h.memory_wf

/-- The invariants hold right after reset, whatever the parameters are (R34, R36). -/
theorem sequencingInvariant_resetWith (params : Params) (session : Nat) :
    SequencingInvariant (State.resetWith params session) where
  bytes_le_symbols := Nat.le_refl 0
  symbols_fit := Nat.zero_le _
  leading_sync h := nomatch h
  cause_fault := ⟨fun _ => rfl, fun _ => rfl⟩
  fcmd_clear _ := rfl
  memory_wf := resetWith_mem_wf params session _

/-- What an effect has to show: the indices, the phase and the memory, the fault registers being out of its reach. -/
theorem SequencingInvariant.effectOf_of {i : Instr} {s : State} (h : SequencingInvariant s)
    (hbytes : (effectOf i s).bidx.toNat ≤ (effectOf i s).sidx.toNat)
    (hsymbols : (effectOf i s).sidx.toNat ≤ 3 * s.params.bufWords)
    (hsync : (effectOf i s).phase = .inFrame → (effectOf i s).sidx.toNat = (effectOf i s).bidx.toNat ∨
      (effectOf i s).sidx.toNat = (effectOf i s).bidx.toNat + 1)
    (hmem : (effectOf i s).mem.wf s.params.bufWords) : SequencingInvariant (effectOf i s) := by
  obtain ⟨hparams, hfault, hcause, hfcmd, -⟩ := effectOf_frame i s
  refine ⟨hbytes, by rwa [hparams], hsync, ?_, ?_, by rwa [hparams]⟩
  · rw [hcause, hfault]; exact h.cause_fault
  · rw [hfault, hfcmd]; exact h.fcmd_clear

/-! The capacity check that did not fail, as the bound it says (R219). -/

theorem lt_of_overCapacity_putSym {b : Bool} {idx : Index} {sym : Symbol} {s : State}
    (h : overCapacity (.putSym b idx sym) s = false) : idx.toNat < 3 * s.params.bufWords := by
  simpa [overCapacity] using h

theorem lt_of_overCapacity_frameData {d : Byte} {s : State} (h : overCapacity (.frameData d) s = false) :
    s.sidx.toNat < 3 * s.params.bufWords := by simpa [overCapacity] using h

theorem le_of_overCapacity_frameEnd {last : Bool} {s : State} (h : overCapacity (.frameEnd last) s = false) :
    s.sidx.toNat + 100 + last.toNat ≤ 3 * s.params.bufWords := by simpa [overCapacity] using h

/-- An index at which a symbol still fits does not wrap when it counts on (R25, R26). -/
theorem toNat_succ_of_fits {s : State} {i : Index} (h : i.toNat < 3 * s.params.bufWords) :
    (i + 1).toNat = i.toNat + 1 := by
  have := s.params.bufWords_le
  simp; omega

theorem effectOf_frameBegin_indices (b ls : Bool) (s : State) :
    (effectOf (.frameBegin b ls) s).bidx.toNat = 0 ∧ (effectOf (.frameBegin b ls) s).sidx.toNat = ls.toNat := by
  cases ls <;> simp [effectOf, beginFrame]

theorem SequencingInvariant.frameBegin {s : State} (h : SequencingInvariant s) (b ls : Bool) :
    SequencingInvariant (effectOf (.frameBegin b ls) s) := by
  obtain ⟨hbidx, hsidx⟩ := effectOf_frameBegin_indices b ls s
  have hpos := s.params.bufWords_pos
  have hls := Bool.toNat_le ls
  refine h.effectOf_of (by omega) (by omega) (fun _ => by omega) ?_
  cases ls
  · exact h.memory_wf
  · have hword : wordOfIndex (0 : Index).toNat < s.params.bufWords := hpos
    exact Memory.wf_write (m := s.mem) h.memory_wf b hword _

theorem SequencingInvariant.frameData {s : State} (h : SequencingInvariant s) (d : Byte)
    (phase : s.phase = .inFrame) (fits : s.sidx.toNat < 3 * s.params.bufWords) :
    SequencingInvariant (effectOf (.frameData d) s) := by
  have hle := h.bytes_le_symbols
  have hsync := h.leading_sync phase
  have hsidx : (effectOf (.frameData d) s).sidx.toNat = s.sidx.toNat + 1 := toNat_succ_of_fits fits
  have hbidx : (effectOf (.frameData d) s).bidx.toNat = s.bidx.toNat + 1 := toNat_succ_of_fits (s := s) (i := s.bidx) (by omega)
  have hword : wordOfIndex s.sidx.toNat < s.params.bufWords := Nat.div_lt_of_lt_mul fits
  exact h.effectOf_of (by omega) (by omega) (fun _ => by omega) (Memory.wf_write h.memory_wf s.curbuf hword _)

theorem endFrame_sidx_toNat {last : Bool} {s : State} (fits : s.sidx.toNat + 100 + last.toNat ≤ 3 * s.params.bufWords) :
    (endFrame last s).sidx.toNat = s.sidx.toNat + 100 + last.toNat := by
  obtain ⟨-, -, hsidx⟩ := endFrame_registers last s
  have := s.params.bufWords_le
  rw [hsidx]
  cases last <;> simp at fits ⊢ <;> omega

theorem SequencingInvariant.frameEnd {s : State} (h : SequencingInvariant s) (last : Bool)
    (fits : s.sidx.toNat + 100 + last.toNat ≤ 3 * s.params.bufWords) :
    SequencingInvariant (effectOf (.frameEnd last) s) := by
  have hle := h.bytes_le_symbols
  have hsidx := endFrame_sidx_toNat fits
  have hwf := endFrame_wf last s h.memory_wf fits
  have hbidx : (endFrame last s).bidx.toNat ≤ s.bidx.toNat + 4 := by
    rw [(endFrame_registers last s).2.1]; simp; omega
  have hphase : (endFrame last s).phase = .idle := rfl
  have hrest := h.effectOf_of (i := .frameEnd last)
  simp only [effectOf] at hrest ⊢
  generalize endFrame last s = t at *
  exact hrest (by simp; omega) (by simp; omega) (by simp [hphase]) hwf

/-- An accepted command keeps the invariants: those that move no index, no phase and no word, PUT_SYM at an index that
fits, and the three of the frame. -/
theorem SequencingInvariant.effectOf {i : Instr} {s : State} (h : SequencingInvariant s)
    (accepted : causeOf i s = none) : SequencingInvariant (effectOf i s) := by
  obtain ⟨-, allowed, fits⟩ := (causeOf_eq_none_iff i s).1 accepted
  cases i with
  | putSym b idx sym =>
    have hword : wordOfIndex idx.toNat < s.params.bufWords := Nat.div_lt_of_lt_mul (lt_of_overCapacity_putSym fits)
    exact h.effectOf_of h.bytes_le_symbols h.symbols_fit h.leading_sync (Memory.wf_write h.memory_wf b hword _)
  | frameBegin b ls => exact h.frameBegin b ls
  | frameData d => exact h.frameData d (by simpa [allowedIn] using allowed) (lt_of_overCapacity_frameData fits)
  | frameEnd last => exact h.frameEnd last (le_of_overCapacity_frameEnd fits)
  | _ => exact h.with_others _ _ _ _ _ _ _ _

/-- Settles O48 (R36 (a) to (d)): the fault, the restart, the ports alone, and the effect of an accepted command. -/
theorem everyStepKeepsTheSequencingInvariant : Obligations.EveryStepKeepsTheSequencingInvariant := by
  intro s t h hstep
  have hports (ins : List Input) : SequencingInvariant { s with inputs := ins } := h.with_others _ _ _ _ ins _ _ _
  cases step_outcome hstep with
  | quiet ins o n => exact h.with_others _ _ _ _ ins o _ n
  | faulted c w ins _ _ isCause => exact (hports ins).raiseFault isCause w
  | restarted ins => exact (sequencingInvariant_resetWith s.params (s.session + 1)).with_others _ _ _ _ ins _ _ s.draws
  | executed i ins _ _ accepted => exact (hports ins).effectOf accepted

/-! ### The content of the frame in progress -/

/-- The content of a frame does not speak of the phase, the fault registers, the ports and the count of racy reads. -/
theorem FrameContent.with_others {s : State} {ls rd0 : Bool} {data : List Byte} (h : FrameContent s ls rd0 data)
    (phase : Phase) (fault : Bool) (cause : Cause) (fcmd : Word) (ins : List Input) (o : Output) (n : Nat) :
    FrameContent { s with
      phase := phase, fault := fault, cause := cause, fcmd := fcmd, inputs := ins, out := o, draws := n }
      ls rd0 data := by
  obtain ⟨hbytes, hsymbols, hfits, hcrc, hparity, hdisparity, hwords⟩ := h
  exact ⟨hbytes, hsymbols, hfits, hcrc, hparity, hdisparity, hwords⟩

/-- The same for the invariant, the phase being the one of the state. -/
theorem FrameInvariant.with_others {s : State} (h : FrameInvariant s) (fault : Bool) (cause : Cause) (fcmd : Word)
    (ins : List Input) (o : Output) (n : Nat) :
    FrameInvariant { s with fault := fault, cause := cause, fcmd := fcmd, inputs := ins, out := o, draws := n } := by
  intro phase
  obtain ⟨ls, rd0, data, hc⟩ := h phase
  exact ⟨ls, rd0, data, hc.with_others _ fault cause fcmd ins o n⟩

/-- While no frame is in progress there is nothing to show. -/
theorem frameInvariant_of_idle {s : State} (h : s.phase = .idle) : FrameInvariant s :=
  fun phase => nomatch h.symm.trans phase

theorem length_frameHead (ls : Bool) (data : List Byte) : (frameHead ls data).length = ls.toNat + data.length := by
  cases ls <;> simp [frameHead, optionalComma]; omega

theorem frameHead_concat (ls : Bool) (data : List Byte) (d : Byte) :
    frameHead ls (data ++ [d]) = frameHead ls data ++ [.byte d] := by simp [frameHead]

/-- The current buffer holds the symbols of the frame so far. -/
theorem FrameContent.holdsSymbols {s : State} {ls rd0 : Bool} {data : List Byte} (h : FrameContent s ls rd0 data) :
    HoldsSymbols s (streamSymbols s.params rd0 (frameHead ls data)) := by
  have hcount : s.sidx.toNat = (streamSymbols s.params rd0 (frameHead ls data)).length := by
    rw [length_streamSymbols, length_frameHead, h.symbols]
  exact ⟨hcount, fun w hw => h.words w (hcount ▸ hw)⟩

/-- The share of a lane is the share of the first bytes, then that of the others, counted on from there (R106). -/
theorem laneBytes_append (l : Lane) (first : Nat) (xs ys : List Byte) :
    laneBytes l first (xs ++ ys) = laneBytes l first xs ++ laneBytes l (first + xs.length) ys := by
  simp [laneBytes, List.zipIdx_append]

/-- The parity of a lane after one more byte, if the byte is its own (R106). -/
theorem laneParity_concat (params : Params) (l : Lane) (data : List Byte) (d : Byte) :
    laneParity params l (data ++ [d]) = (laneBytes l data.length [d]).foldl (rsUpdate params) (laneParity params l data) := by
  simp [laneParity, accumulatorAfter, laneBytes_append]

theorem frameCrc_concat (params : Params) (data : List Byte) (d : Byte) :
    frameCrc params (data ++ [d]) = crcStep params (frameCrc params data) d := by simp [frameCrc]

/-- FRAME_BEGIN begins the frame of no data, in the disparity it finds (R172). -/
theorem frameContent_frameBegin (b ls : Bool) (s : State) :
    FrameContent (effectOf (.frameBegin b ls) s) ls s.rd [] := by
  obtain ⟨hbidx, hsidx⟩ := effectOf_frameBegin_indices b ls s
  have hparams : (effectOf (.frameBegin b ls) s).params = s.params := (effectOf_frame _ s).1
  have hholds : HoldsSymbols (effectOf (.frameBegin b ls) s) (streamSymbols s.params s.rd (optionalComma ls)) := by
    have hnone : HoldsSymbols (beginFrame b false s) [] :=
      ⟨rfl, fun w hw => absurd hw (Nat.not_lt_zero _)⟩
    obtain ⟨hcount, hwords⟩ := hnone.optionalSync ls (by cases ls <;> decide)
    exact ⟨hcount, hwords⟩
  have hpos := s.params.bufWords_pos
  have hls := Bool.toNat_le ls
  refine ⟨hbidx, hsidx, by rw [hparams]; omega, ?crc, ?parity, ?disparity, ?words⟩
  case crc => cases ls <;> rfl
  case parity =>
    intro l
    have hp : (effectOf (.frameBegin b ls) s).p = Vector.replicate 3 zeroAccumulator := by cases ls <;> rfl
    rw [hp]
    simp [laneParity, laneBytes, accumulatorAfter]
  case disparity => cases ls <;> rfl
  case words =>
    intro w hw
    rw [hholds.count] at hw
    rw [hholds.words w hw, hparams]
    simp [frameHead]

/-- FRAME_DATA appends its byte to the frame (R174). -/
theorem FrameContent.frameData {s : State} {ls rd0 : Bool} {data : List Byte} (h : FrameContent s ls rd0 data) (d : Byte)
    (fits : s.sidx.toNat < 3 * s.params.bufWords) :
    FrameContent (effectOf (.frameData d) s) ls rd0 (data ++ [d]) := by
  have hle := s.params.bufWords_le
  have hsidx : (effectOf (.frameData d) s).sidx.toNat = s.sidx.toNat + 1 := toNat_succ_of_fits fits
  have hsymbols := h.symbols
  have hbytes := h.bytes
  have hbidx : (effectOf (.frameData d) s).bidx.toNat = s.bidx.toNat + 1 :=
    toNat_succ_of_fits (s := s) (i := s.bidx) (by omega)
  have hholds := h.holdsSymbols
  refine ⟨?bytes, ?symbols, ?fits, ?crc, ?parity, ?disparity, ?words⟩
  case bytes => rw [List.length_append, List.length_singleton]; omega
  case symbols => rw [List.length_append, List.length_singleton]; omega
  case fits => rw [(effectOf_frame _ s).1]; omega
  case crc =>
    have hcrc : (effectOf (.frameData d) s).crc = crcStep s.params s.crc d := rfl
    rw [hcrc, h.crc, (effectOf_frame _ s).1, frameCrc_concat]
  case parity =>
    intro l
    have hp := pushBytes_p [d] { s with crc := crcStep s.params s.crc d } l (by simp; omega)
    rw [(effectOf_frame _ s).1, laneParity_concat, ← h.parity l, ← h.bytes]
    exact hp
  case disparity =>
    have hrd : (effectOf (.frameData d) s).rd = (encData s.params s.rd d).next := rfl
    rw [hrd, (effectOf_frame _ s).1, frameHead_concat, streamState_append, ← h.disparity]
    rfl
  case words =>
    intro w hw
    have hcrc : HoldsSymbols { s with crc := crcStep s.params s.crc d } _ := ⟨hholds.count, hholds.words⟩
    have hpush := hcrc.pushByte d (by have := hholds.count; omega)
    rw [(effectOf_frame _ s).1, frameHead_concat, streamSymbols_append, ← h.disparity]
    exact hpush.words w (hpush.count ▸ hw)

/-- An accepted command keeps the invariant: in a frame only reads and FRAME_DATA are accepted and leave it in
progress, and FRAME_BEGIN begins one. -/
theorem FrameInvariant.effectOf {i : Instr} {s : State} (h : FrameInvariant s) (accepted : causeOf i s = none) :
    FrameInvariant (effectOf i s) := by
  obtain ⟨-, allowed, fits⟩ := (causeOf_eq_none_iff i s).1 accepted
  cases i with
  | frameBegin b ls => exact fun _ => ⟨ls, s.rd, [], frameContent_frameBegin b ls s⟩
  | frameData d =>
    intro _
    obtain ⟨ls, rd0, data, hc⟩ := h (by simpa [allowedIn] using allowed)
    exact ⟨ls, rd0, data ++ [d], hc.frameData d (lt_of_overCapacity_frameData fits)⟩
  | frameEnd last => exact frameInvariant_of_idle rfl
  | rsRead | getSym | rdStatus => exact h.with_others _ _ _ _ _ _
  | rsClear | rsUpdate | encByte | encSync | putSym =>
    have hidle : s.phase = .idle := by simpa [allowedIn] using allowed
    exact frameInvariant_of_idle hidle

/-- Settles O41 (R36 (b), (f)): the fault and the ports alone leave the frame as it is, the restart ends it, and an
accepted command keeps the invariant. -/
theorem everyStepKeepsTheFrameContent : Obligations.EveryStepKeepsTheFrameContent := by
  intro s t h hstep
  have hports (ins : List Input) : FrameInvariant { s with inputs := ins } := h.with_others _ _ _ ins _ _
  cases step_outcome hstep with
  | quiet ins o n => exact h.with_others _ _ _ ins o n
  | faulted c w ins => exact h.with_others true c w ins _ _
  | restarted ins => exact frameInvariant_of_idle rfl
  | executed i ins _ _ accepted => exact (hports ins).effectOf accepted

/-- Settles O49 (R36): right after reset the indices are equal, the fault registers clear, the memory empty, and no
frame is in progress. -/
theorem resetMeetsTheInvariants : Obligations.ResetMeetsTheInvariants := by
  have hreset (params : Params) (session : Nat) :
      SequencingInvariant (State.resetWith params session) ∧ FrameInvariant (State.resetWith params session) :=
    ⟨sequencingInvariant_resetWith params session, frameInvariant_of_idle rfl⟩
  exact ⟨hreset, hreset builtParams 0⟩

/-! ### FRAME_END -/

/-- FRAME_END's effect as one record: the registers it writes, and the memory (R176). The state it leaves is held as a
variable, as in `endFrame_frame`. -/
theorem endFrame_eq (last : Bool) (s : State) :
    ∃ o : Output, endFrame last s = { s with
      p := (pushCrc s).p,
      rd := streamState s.params s.rd (frameTail (crcBytes s.params (s.crc ^^^ crcXorOut)) (pushCrc s).p last),
      mem := (endFrame last s).mem, bidx := s.bidx + 4, sidx := s.sidx + (if last then 101 else 100), phase := .idle,
      out := o } := by
  obtain ⟨hparams, hcrc, hcurbuf, hfault, hcause, hfcmd, hinputs, hsession, hdraws⟩ := endFrame_frame last s
  obtain ⟨hp, hbidx, hsidx⟩ := endFrame_registers last s
  have hrd := endFrame_rd last s
  have hphase : (endFrame last s).phase = .idle := rfl
  generalize endFrame last s = t at *
  cases t
  dsimp only at *
  subst_vars
  exact ⟨_, rfl⟩

/-- Settles O39 (R176, R173, R175): the effect of FRAME_END, assembled from its registers, the disparity of the stream
it appends, the lanes of the four CRC bytes and the words it leaves. -/
theorem frameEndFinishesTheFrame : Obligations.FrameEndFinishesTheFrame := by
  intro s last crc noFault phase hle fits hcrc
  have hbound := s.params.bufWords_le
  refine ⟨(endFrame last s).mem, (pushCrc s).p, ?exec, ?lanes, ?words⟩
  case exec =>
    have accepted : causeOf (.frameEnd last) s = none :=
      (causeOf_eq_none_iff _ s).2 ⟨rfl, by simp [allowedIn, phase], by simpa [overCapacity] using fits⟩
    obtain ⟨o, heq⟩ := endFrame_eq last s
    rw [exec_eq _ s rfl, accepted, runChecked_none noFault]
    simp only [effectOf]
    generalize endFrame last s = t at *
    rw [heq, hcrc, ← noFault]
    rfl
  case lanes =>
    intro l
    have hlanes := pushBytes_p (crcBytes s.params (s.crc ^^^ crcXorOut)) s l (by simp; omega)
    rw [hcrc]
    exact hlanes
  case words =>
    intro b w outside
    have hsession : (endFrame last s).session = s.session := (endFrame_frame last s).2.2.2.2.2.2.2.1
    rw [← endFrame_other last s (by omega) b w outside]
    generalize endFrame last s = t at *
    exact memRead_congr (s := t) (t := { s with mem := t.mem }) rfl hsession.symm b w

/-! ### Which command writes what -/

section
variable {i : Instr} {s : State}

theorem effectOf_p (h : mayWriteP i = false) : (effectOf i s).p = s.p := by
  cases i with
  | rsClear | rsUpdate | frameBegin | frameData | frameEnd => simp [mayWriteP] at h
  | _ => rfl

theorem effectOf_rd (h : mayWriteRd i = false) : (effectOf i s).rd = s.rd := by
  cases i with
  | encByte | encSync | frameData | frameEnd => simp [mayWriteRd] at h
  | frameBegin b ls =>
    cases ls
    · rfl
    · simp [mayWriteRd] at h
  | _ => rfl

theorem effectOf_crc (h : mayWriteCrc i = false) : (effectOf i s).crc = s.crc := by
  cases i with
  | frameBegin | frameData => simp [mayWriteCrc] at h
  | frameEnd last => exact (endFrame_frame last s).2.1
  | _ => rfl

theorem effectOf_indices (h : mayWriteIndices i = false) :
    (effectOf i s).bidx = s.bidx ∧ (effectOf i s).sidx = s.sidx := by
  cases i with
  | frameBegin | frameData | frameEnd => simp [mayWriteIndices] at h
  | _ => exact ⟨rfl, rfl⟩

theorem effectOf_phase (h : (effectOf i s).phase ≠ s.phase) :
    (∃ b ls, i = .frameBegin b ls ∧ (effectOf i s).phase = .inFrame) ∨
    (∃ last, i = .frameEnd last ∧ (effectOf i s).phase = .idle) := by
  cases i with
  | frameBegin b ls => exact .inl ⟨b, ls, rfl, by cases ls <;> rfl⟩
  | frameEnd last => exact .inr ⟨last, rfl, rfl⟩
  | _ => exact absurd rfl h

theorem effectOf_curbuf (h : (effectOf i s).curbuf ≠ s.curbuf) :
    ∃ b ls, i = .frameBegin b ls ∧ (effectOf i s).curbuf = b := by
  cases i with
  | frameBegin b ls => exact ⟨b, ls, rfl, by cases ls <;> rfl⟩
  | frameEnd last => exact absurd (endFrame_frame last s).2.2.1 h
  | _ => exact absurd rfl h

/-- An accepted command leaves every word of a buffer it does not write (R22). -/
theorem memRead_effectOf {b : Bool} (accepted : causeOf i s = none) (h : mayWriteBuffer s i b = false) (w : Nat) :
    memRead (effectOf i s) b w = memRead s b w := by
  obtain ⟨-, -, fits⟩ := (causeOf_eq_none_iff i s).1 accepted
  cases i with
  | putSym b' idx sym =>
    have hb : b' ≠ b := by simpa [mayWriteBuffer] using h
    have hput := memRead_putSymbol s b' b idx.toNat w sym
    rw [if_neg fun e => hb e.1.symm] at hput
    exact hput
  | frameBegin b' ls =>
    cases ls
    · rfl
    · have hb : b' ≠ b := by simpa [mayWriteBuffer] using h
      have hsync := memRead_emitCoded (beginFrame b' false s) (encSync s.rd) b w
      rw [if_neg fun e => hb e.1.symm] at hsync
      exact hsync
  | frameData d =>
    have hb : s.curbuf ≠ b := by simpa [mayWriteBuffer] using h
    have hpush := memRead_pushByte { s with crc := crcStep s.params s.crc d } d b w
    rw [if_neg fun e => hb e.1.symm] at hpush
    exact hpush
  | frameEnd last =>
    have hb : s.curbuf ≠ b := by simpa [mayWriteBuffer] using h
    have hfits := le_of_overCapacity_frameEnd fits
    have hbound := s.params.bufWords_le
    exact endFrame_other last s (by omega) b w fun e => hb e.1.symm
  | _ => rfl

end

/-- Settles O47 (R20 to R28): a command turned away writes no register, and of an accepted one each register and buffer
has its own lemma. -/
theorem onlyItsCommandsWriteARegister : Obligations.OnlyItsCommandsWriteARegister := by
  intro i s t h
  rcases exec_cases i s with ⟨-, -, e⟩ | ⟨c, -, -, -, e⟩ | ⟨-, accepted, e⟩ <;> rw [e] at h <;> cases h
  case inl => simp [memRead]
  case inr.inl => simp [memRead]
  case inr.inr =>
    exact ⟨effectOf_p, effectOf_rd, fun b => memRead_effectOf accepted, effectOf_crc, effectOf_indices, effectOf_phase,
      effectOf_curbuf⟩

/-! ### The ports do not matter -/

/-- The state with other things at the ports and another count of racy reads. -/
def withPorts (ins : List Input) (o : Output) (n : Nat) (s : State) : State :=
  { s with inputs := ins, out := o, draws := n }

section
variable (ins : List Input) (o : Output) (n : Nat)

theorem emitBytes_withPorts (bytes : List Byte) (s : State) :
    emitBytes bytes (withPorts ins o n s) = withPorts ins o n (emitBytes bytes s) := by
  induction bytes generalizing s with
  | nil => rfl
  | cons b rest ih => exact ih (emitData b s)

theorem pushBytes_withPorts (bytes : List Byte) (s : State) :
    pushBytes bytes (withPorts ins o n s) = withPorts ins o n (pushBytes bytes s) := by
  induction bytes generalizing s with
  | nil => rfl
  | cons b rest ih => exact ih (pushByte b s)

theorem pushCrc_withPorts (s : State) : pushCrc (withPorts ins o n s) = withPorts ins o n (pushCrc s) :=
  pushBytes_withPorts ins o n (crcBytes s.params (s.crc ^^^ crcXorOut)) s

theorem appendTail_withPorts (last : Bool) (s : State) :
    appendTail last (withPorts ins o n s) = withPorts ins o n (appendTail last s) := by
  have e (u : State) : appendTail last u =
    if last then emitSync (emitBytes (parityOrder u.p) u) else emitBytes (parityOrder u.p) u := rfl
  have hp : (withPorts ins o n s).p = s.p := rfl
  rw [e, e, hp, emitBytes_withPorts]
  generalize emitBytes (parityOrder s.p) s = t
  cases last <;> rfl

theorem endFrame_withPorts (last : Bool) (s : State) :
    endFrame last (withPorts ins o n s) = withPorts ins o n (endFrame last s) := by
  unfold endFrame
  rw [pushCrc_withPorts, appendTail_withPorts]
  generalize appendTail last (pushCrc s) = t
  rfl

/-- An effect is the same whatever the ports show, and so is its answer (R35). -/
theorem effectOf_withPorts (i : Instr) (s : State) :
    effectOf i (withPorts ins o n s) = withPorts ins (effectOf i s).out n (effectOf i s) := by
  cases i with
  | frameBegin b ls => cases ls <;> rfl
  | frameEnd last =>
    simp only [effectOf, endFrame_withPorts]
    generalize endFrame last s = t
    rfl
  | _ => rfl

theorem causeOf_withPorts (i : Instr) (s : State) : causeOf i (withPorts ins o n s) = causeOf i s := by
  cases i <;> rfl

theorem runChecked_withPorts (w : Word) (why : Option Cause) (effect s : State) :
    runChecked w why (withPorts ins effect.out n effect) (withPorts ins o n s) =
      withPorts ins (runChecked w why effect s).out n (runChecked w why effect s) := by
  have hfault : (withPorts ins o n s).fault = s.fault := rfl
  unfold runChecked
  rw [hfault]
  cases s.fault <;> cases why <;> rfl

theorem exec_withPorts {i : Instr} {s t : State} (h : exec i s = .next t) :
    exec i (withPorts ins o n s) = .next (withPorts ins t.out n t) := by
  cases hsel : isRdStatus i
  · rw [exec_eq i _ hsel, causeOf_withPorts, effectOf_withPorts, runChecked_withPorts]
    rw [exec_eq i s hsel] at h
    cases h
    rfl
  · cases i with
    | rdStatus sel => cases h; rfl
    | _ => simp [isRdStatus] at hsel

theorem reservedWord_withPorts (w : Word) (s : State) :
    reservedWord w (withPorts ins o n s) = withPorts ins (reservedWord w s).out n (reservedWord w s) := by
  have hfault : (withPorts ins o n s).fault = s.fault := rfl
  unfold reservedWord runChecked
  rw [hfault]
  cases s.fault <;> rfl

theorem runWord_withPorts {w : Word} {s t : State} (h : runWord w s = .next t) :
    runWord w (withPorts ins o n s) = .next (withPorts ins t.out n t) := by
  unfold runWord at h ⊢
  cases hd : decode w with
  | command i => rw [hd] at h; exact exec_withPorts ins o n h
  | reserved why => rw [hd] at h; cases h; exact congrArg _ (reservedWord_withPorts ins o n w s)

end

/-- Settles O50 (R35, R78): a step on a command word is `runWord`, which the ports do not reach. -/
theorem commandsDependOnRegistersAlone : Obligations.CommandsDependOnRegistersAlone := by
  intro s w rest rest' o n t h
  exact runWord_withPorts rest' o n (s := { s with inputs := rest }) h

end Sys2Proof.Machine
end

section
/-! Proofs of the family `spec/20_memory.md`. -/

namespace Sys2Proof.Machine

/-! ### A step on what stands first at the ports -/

theorem step_of_command {s : State} {w : Word} {rest : List Input} (hi : s.inputs = .command w :: rest) :
    step s = runWord w { s with inputs := rest } := by simp [step, takeInput, hi]

theorem step_of_outsideRead {s : State} {b : Bool} {w : BitVec 15} {rest : List Input}
    (hi : s.inputs = .outsideRead b w :: rest) : step s = outsideRead b w.toNat { s with inputs := rest } := by
  simp [step, takeInput, hi]

theorem runWord_of_decode {w : Word} {i : Instr} (hd : decode w = .command i) (s : State) : runWord w s = exec i s := by
  simp [runWord, hd]

/-- Settles O8 (R57, R76): a step on a command word is `runWord`, and `runWord` on a word that decodes is `exec`. -/
theorem stepRunsTheDecodedCommand : Obligations.StepRunsTheDecodedCommand := by
  intro s w rest i hi hd
  calc step s = runWord w { s with inputs := rest } := step_of_command hi
    _ = exec i { s with inputs := rest } := runWord_of_decode hd _

/-! ### The outside read -/

section
variable {s : State} {b : Bool} {w : Nat}

/-- A read races exactly with the frame in progress in its own buffer (R58). -/
theorem racy_iff : racy s b = true ↔ s.phase = .inFrame ∧ b = s.curbuf := by simp [racy, State.inFrame]

theorem racy_eq_false_of_defined (h : s.phase = .idle ∨ b ≠ s.curbuf) : racy s b = false := by
  rw [← Bool.not_eq_true, racy_iff]
  rintro ⟨hphase, hb⟩
  rcases h with hidle | hother
  · simp [hphase] at hidle
  · exact hother hb

theorem outsideRead_of_pastEnd (h : s.params.bufWords ≤ w) : outsideRead b w s = .fault (.noSuchWord b w) := by
  simp [outsideRead, h]

theorem outsideRead_of_racy (hw : w < s.params.bufWords) (h : racy s b = true) :
    outsideRead b w s = .next { s with out := .readData (Config.racyRead s.draws), draws := s.draws + 1 } := by
  simp [outsideRead, h, Nat.not_le.2 hw]

theorem outsideRead_of_not_racy (hw : w < s.params.bufWords) (h : racy s b = false) :
    outsideRead b w s = .next { s with out := .readData (memRead s b w) } := by
  simp [outsideRead, h, Nat.not_le.2 hw]

end

/-- Settles O12 (R58, R78): the step is `outsideRead` with the read taken off the port, which has one equation for each
of the three clauses. -/
theorem outsideReadReturnsTheWord : Obligations.OutsideReadReturnsTheWord := by
  intro s b w rest hi
  rw [step_of_outsideRead hi]
  refine ⟨?defined, ?racing, ?pastEnd⟩
  case defined =>
    intro hw hdefined
    exact outsideRead_of_not_racy hw (racy_eq_false_of_defined hdefined)
  case racing =>
    intro hw hphase hb
    exact outsideRead_of_racy hw (racy_iff.2 ⟨hphase, hb⟩)
  case pastEnd => exact fun hw => outsideRead_of_pastEnd hw

/-! ### The layout of the symbols -/

/-- Settles O33 (R51): shifting the word down by `offsetOfIndex` and keeping ten bits is `extractLsb'` at that bit; the
offset is at most 20. -/
theorem symbolLayout : Obligations.SymbolLayout := by
  intro s b i
  have hmod : i % 3 < 3 := Nat.mod_lt i (by decide)
  have hbits : getSymbol s b i = (memRead s b (wordOfIndex i)).extractLsb' (offsetOfIndex i) 10 :=
    BitVec.setWidth_ushiftRight_eq_extractLsb
  exact ⟨hbits, rfl, by omega⟩

end Sys2Proof.Machine
end

section
/-! Proofs of the family `spec/30_encoding.md`. -/

namespace Sys2Proof.Machine

/-! ### Fields of a word -/

/-- A must-be-zero field, bit by bit (R71). -/
theorem zeroBits_iff (lo len : Nat) (w : Word) :
    zeroBits lo len w = true ↔ ∀ k < len, w.getLsbD (lo + k) = false := by
  rw [zeroBits, beq_iff_eq, bitField, BitVec.eq_of_getLsbD_eq_iff]
  refine forall₂_congr fun k hk => ?_
  simp [hk]

/-- `OP` is the bits from 28 up (R70). -/
theorem fieldOp_eq_iff (w v : Word) :
    fieldOp w = fieldOp v ↔ ∀ k < 32, 28 ≤ k → w.getLsbD k = v.getLsbD k := by
  rw [fieldOp, fieldOp, bitField, bitField, BitVec.eq_of_getLsbD_eq_iff]
  constructor
  · intro h k hk hop
    have hbit := h (k - 28) (by omega)
    simpa [show k - 28 < 4 by omega, show 28 + (k - 28) = k by omega] using hbit
  · intro h k hk
    simpa [hk] using h (28 + k) (by omega) (by omega)

section
variable {n : Nat} (v : BitVec n)

/-- A field comes back from the place it was put at. -/
@[simp] theorem bitField_shiftLeft {lo : Nat} (h : lo + n ≤ 32) : bitField lo n (v.setWidth 32 <<< lo) = v := by
  apply BitVec.eq_of_getLsbD_eq
  intro k hk
  simp [bitField, hk, show lo + k < 32 by omega]

@[simp] theorem bitField_setWidth (h : n ≤ 32) : bitField 0 n (v.setWidth 32) = v := by
  simpa using bitField_shiftLeft v (lo := 0) (by omega)

/-- A field put elsewhere is not seen. -/
@[simp] theorem bitField_shiftLeft_disjoint {lo lo' len : Nat} (h : lo + len ≤ lo' ∨ lo' + n ≤ lo) :
    bitField lo len (v.setWidth 32 <<< lo') = 0 := by
  apply BitVec.eq_of_getLsbD_eq
  intro k hk
  have hbit : lo + k < lo' ∨ n ≤ lo + k - lo' := by omega
  rcases hbit with hlow | hhigh
  · simp [bitField, hlow]
  · simp [bitField, BitVec.getLsbD_of_ge v _ hhigh]

@[simp] theorem bitField_setWidth_disjoint {lo len : Nat} (h : n ≤ lo) : bitField lo len (v.setWidth 32) = 0 := by
  simpa using bitField_shiftLeft_disjoint v (lo' := 0) (len := len) (.inr (by omega : 0 + n ≤ lo))

end

@[simp] theorem bitField_or (lo len : Nat) (a b : Word) :
    bitField lo len (a ||| b) = bitField lo len a ||| bitField lo len b := BitVec.extractLsb'_or

@[simp] theorem bitField_literal (lo len n : Nat) :
    bitField lo len (BitVec.ofNat 32 n) = (BitVec.ofNat 32 n).extractLsb' lo len := rfl

/-- The `n` bits from bit `lo` up. -/
def fieldMask (lo n : Nat) : Word := (BitVec.allOnes n).setWidth 32 <<< lo

/-- A field read off a word and put back at its place is the word under the field's mask. -/
theorem shiftLeft_bitField (lo n : Nat) (w : Word) :
    (bitField lo n w).setWidth 32 <<< lo = w &&& fieldMask lo n := by
  apply BitVec.eq_of_getLsbD_eq
  intro k hk
  by_cases hlo : k < lo
  · simp [fieldMask, hlo]
  · simp [fieldMask, bitField, hk, hlo, show lo + (k - lo) = k by omega, Bool.and_comm]

theorem setWidth_bitField (n : Nat) (w : Word) : (bitField 0 n w).setWidth 32 = w &&& fieldMask 0 n := by
  simpa using shiftLeft_bitField 0 n w

theorem ofBool_getLsbD (k : Nat) (w : Word) : BitVec.ofBool (w.getLsbD k) = bitField k 1 w := by
  apply BitVec.eq_of_getLsbD_eq
  intro j hj
  obtain rfl : j = 0 := by omega
  simp [bitField]

/-! ### The formats of the rows -/

/-- A row of the opcode map with the format of R71: its must-be-zero fields (lowest bit and length), and the command
whose fields are read off a word. -/
structure Format where
  row : Row
  zeros : List (Nat × Nat)
  read : Word → Instr

/-- The formats in the order of the opcode map (R71, R74). -/
def formats : List Format :=
  [⟨⟨"RS_CLEAR", 0x10000000, 0xFFFFFFFF⟩, [(0, 28)], fun _ => .rsClear⟩,
   ⟨⟨"RS_UPDATE", 0x20000000, 0xFFFFFC00⟩, [(10, 18)], fun w => .rsUpdate (fieldLane w) (fieldData8 w)⟩,
   ⟨⟨"RS_READ", 0x30000000, 0xFFFFFCE0⟩, [(10, 18), (5, 3)], fun w => .rsRead (fieldLane w) (fieldPos w)⟩,
   ⟨⟨"ENC_BYTE", 0x40000000, 0xFFFFFF00⟩, [(8, 20)], fun w => .encByte (fieldData8 w)⟩,
   ⟨⟨"ENC_SYNC", 0x50000000, 0xFFFFFFFF⟩, [(0, 28)], fun _ => .encSync⟩,
   ⟨⟨"PUT_SYM", 0x60000000, 0xF4000000⟩, [(26, 1)], fun w => .putSym (fieldB w) (fieldIdx w) (fieldSym w)⟩,
   ⟨⟨"GET_SYM", 0x70000000, 0xF40003FF⟩, [(26, 1), (0, 10)], fun w => .getSym (fieldB w) (fieldIdx w)⟩,
   ⟨⟨"FRAME_BEGIN", 0x80000000, 0xF3FFFFFF⟩, [(0, 26)], fun w => .frameBegin (fieldB w) (fieldFl w)⟩,
   ⟨⟨"FRAME_DATA", 0x90000000, 0xFFFFFF00⟩, [(8, 20)], fun w => .frameData (fieldData8 w)⟩,
   ⟨⟨"FRAME_END", 0xA0000000, 0xFBFFFFFF⟩, [(27, 1), (0, 26)], fun w => .frameEnd (fieldFl w)⟩,
   ⟨⟨"RD_STATUS", 0xB0000000, 0xFFFFFFFC⟩, [(2, 26)], fun w => .rdStatus (fieldSel w)⟩]

theorem formats_rows : formats.map Format.row = opcodeMap := rfl

theorem row_mem_opcodeMap {f : Format} (hf : f ∈ formats) : f.row ∈ opcodeMap :=
  formats_rows ▸ List.mem_map_of_mem hf

theorem exists_format_of_row {r : Row} (hr : r ∈ opcodeMap) : ∃ f ∈ formats, f.row = r :=
  List.mem_map.1 (formats_rows ▸ hr)

/-- The mask of a row is `OP` and the must-be-zero bits (R71, R74). -/
theorem mask_bits : ∀ f ∈ formats, ∀ k < 32,
    f.row.mask.getLsbD k = true ↔ 28 ≤ k ∨ ∃ z ∈ f.zeros, z.1 ≤ k ∧ k < z.1 + z.2 := by decide +kernel

/-- The match of a row has only `OP` bits (R74). -/
theorem pattern_bits : ∀ r ∈ opcodeMap, ∀ k < 28, r.pattern.getLsbD k = false := by decide +kernel

theorem zeros_below_op : ∀ f ∈ formats, ∀ z ∈ f.zeros, z.1 + z.2 ≤ 28 := by decide +kernel

/-- No two rows have the same `OP` (R74). -/
theorem row_eq_of_op : ∀ r ∈ opcodeMap, ∀ r' ∈ opcodeMap, fieldOp r.pattern = fieldOp r'.pattern → r = r' := by
  decide +kernel

theorem row_eq_of_mnemonic : ∀ r ∈ opcodeMap, ∀ r' ∈ opcodeMap, r.mnemonic = r'.mnemonic → r = r' := by decide +kernel

/-- The `OP` values with no row are 0x0 and 0xC to 0xF (R75 (a)). -/
theorem op_unused_iff : ∀ op : BitVec 4, (op = 0x0 ∨ 0xC ≤ op) ↔ ∀ r ∈ opcodeMap, op ≠ fieldOp r.pattern := by
  decide +kernel

theorem readRow_of_unused {w : Word} (h : ∀ r ∈ opcodeMap, fieldOp w ≠ fieldOp r.pattern) :
    readRow w = .reserved .opcode := by
  have hop : (fieldOp w).toNat = 0 ∨ 12 ≤ (fieldOp w).toNat :=
    ((op_unused_iff _).2 h).imp (congrArg BitVec.toNat) id
  unfold readRow
  split
  case h_12 => rfl
  all_goals omega

/-- Of a word with the `OP` of a row, `readRow` asks the must-be-zero fields of the row's format (R71, R74). -/
theorem readRow_of_op {f : Format} (hf : f ∈ formats) {w : Word} (hop : fieldOp w = fieldOp f.row.pattern) :
    readRow w = requireZero (f.zeros.all fun z => zeroBits z.1 z.2 w) (f.read w) := by
  simp only [formats, List.mem_cons, List.not_mem_nil, or_false] at hf
  rcases hf with rfl | rfl | rfl | rfl | rfl | rfl | rfl | rfl | rfl | rfl | rfl
  all_goals
    simp only [readRow, hop]
    simp [fieldOp, bitField]

/-- A word with the `OP` of a row fits the row exactly when its must-be-zero fields are 0 (R74). -/
theorem fits_iff_zeros {f : Format} (hf : f ∈ formats) {w : Word} (hop : fieldOp w = fieldOp f.row.pattern) :
    w &&& f.row.mask = f.row.pattern ↔ (f.zeros.all fun z => zeroBits z.1 z.2 w) = true := by
  have hpattern := pattern_bits f.row (row_mem_opcodeMap hf)
  have hmask := mask_bits f hf
  have hbelow := zeros_below_op f hf
  rw [fieldOp_eq_iff] at hop
  simp only [List.all_eq_true, zeroBits_iff, BitVec.eq_of_getLsbD_eq_iff, BitVec.getLsbD_and]
  constructor
  · intro h z hz k hk
    have hlt : z.1 + k < 28 := by have := hbelow z hz; omega
    have hin : f.row.mask.getLsbD (z.1 + k) = true := (hmask _ (by omega)).2 (.inr ⟨z, hz, by omega, by omega⟩)
    have hbit := h (z.1 + k) (by omega)
    rwa [hin, hpattern _ hlt, Bool.and_true] at hbit
  · intro h k hk
    by_cases hlt : k < 28
    · rw [hpattern k hlt]
      cases hin : f.row.mask.getLsbD k
      · simp
      · rcases (hmask k hk).1 hin with habove | ⟨z, hz, hlo, hhi⟩
        · omega
        · have hzero := h z hz (k - z.1) (by omega)
          rw [show z.1 + (k - z.1) = k by omega] at hzero
          simp [hzero]
    · rw [(hmask k hk).2 (.inl (by omega)), hop k hk (by omega), Bool.and_true]

/-- A word that fits a row has the `OP` of the row. -/
theorem op_of_fits {r : Row} (hr : r ∈ opcodeMap) {w : Word} (h : w &&& r.mask = r.pattern) :
    fieldOp w = fieldOp r.pattern := by
  obtain ⟨f, hf, rfl⟩ := exists_format_of_row hr
  rw [fieldOp_eq_iff]
  intro k hk hop
  rw [← h, BitVec.getLsbD_and, (mask_bits f hf k hk).2 (.inl hop), Bool.and_true]

/-- The word of the command read off `w` takes its `OP` from the row and its fields from `w` (R70, R71): each field put
back is `w` under the field's mask, and the masks of the fields make up what the row's mask leaves out. -/
theorem encode_read {f : Format} (hf : f ∈ formats) (w : Word) :
    encode (f.read w) = f.row.pattern ||| (w &&& ~~~f.row.mask) := by
  simp only [formats, List.mem_cons, List.not_mem_nil, or_false] at hf
  rcases hf with rfl | rfl | rfl | rfl | rfl | rfl | rfl | rfl | rfl | rfl | rfl
  all_goals
    simp only [encode, fieldLane, fieldData8, fieldPos, fieldB, fieldFl, fieldIdx, fieldSym, fieldSel, ofBool_getLsbD,
      shiftLeft_bitField, setWidth_bitField, BitVec.or_assoc, ← BitVec.and_or_distrib_left]
    simp [fieldMask]

theorem mnemonic_read {f : Format} (hf : f ∈ formats) (w : Word) : (f.read w).mnemonic = f.row.mnemonic := by
  simp only [formats, List.mem_cons, List.not_mem_nil, or_false] at hf
  rcases hf with rfl | rfl | rfl | rfl | rfl | rfl | rfl | rfl | rfl | rfl | rfl <;> rfl

/-- The fields of a command come back from its word (R70, R71). -/
theorem exists_format_reading (i : Instr) :
    ∃ f ∈ formats, f.row.mnemonic = i.mnemonic ∧ f.read (encode i) = i := by
  cases i with
  | rsClear => exact ⟨formats[0], List.getElem_mem _, rfl, rfl⟩
  | rsUpdate lane data8 =>
    exact ⟨formats[1], List.getElem_mem _, rfl, by simp [formats, encode, fieldLane, fieldData8]⟩
  | rsRead lane pos => exact ⟨formats[2], List.getElem_mem _, rfl, by simp [formats, encode, fieldLane, fieldPos]⟩
  | encByte data8 => exact ⟨formats[3], List.getElem_mem _, rfl, by simp [formats, encode, fieldData8]⟩
  | encSync => exact ⟨formats[4], List.getElem_mem _, rfl, rfl⟩
  | putSym b idx sym =>
    exact ⟨formats[5], List.getElem_mem _, rfl, by simp [formats, encode, fieldB, fieldIdx, fieldSym]⟩
  | getSym b idx => exact ⟨formats[6], List.getElem_mem _, rfl, by simp [formats, encode, fieldB, fieldIdx]⟩
  | frameBegin b ls => exact ⟨formats[7], List.getElem_mem _, rfl, by simp [formats, encode, fieldB, fieldFl]⟩
  | frameData data8 => exact ⟨formats[8], List.getElem_mem _, rfl, by simp [formats, encode, fieldData8]⟩
  | frameEnd last => exact ⟨formats[9], List.getElem_mem _, rfl, by simp [formats, encode, fieldFl]⟩
  | rdStatus sel => exact ⟨formats[10], List.getElem_mem _, rfl, by simp [formats, encode, fieldSel]⟩

/-- The word of a command fits the row with its mnemonic (R74). -/
theorem encode_fits_row (i : Instr) : ∃ r ∈ opcodeMap, r.mnemonic = i.mnemonic ∧ encode i &&& r.mask = r.pattern := by
  cases i with
  | rsClear => exact Laws.EncodedWordFitsItsRow.rsClear
  | rsUpdate lane data8 => exact Laws.EncodedWordFitsItsRow.rsUpdate lane data8
  | rsRead lane pos => exact Laws.EncodedWordFitsItsRow.rsRead lane pos
  | encByte data8 => exact Laws.EncodedWordFitsItsRow.encByte data8
  | encSync => exact Laws.EncodedWordFitsItsRow.encSync
  | putSym b idx sym => exact Laws.EncodedWordFitsItsRow.putSym b idx sym
  | getSym b idx => exact Laws.EncodedWordFitsItsRow.getSym b idx
  | frameBegin b ls => exact Laws.EncodedWordFitsItsRow.frameBegin b ls
  | frameData data8 => exact Laws.EncodedWordFitsItsRow.frameData data8
  | frameEnd last => exact Laws.EncodedWordFitsItsRow.frameEnd last
  | rdStatus sel => exact Laws.EncodedWordFitsItsRow.rdStatus sel

/-! ### What `readRow` reads -/

/-- A word that fits a row is the command the row's format reads off it. -/
theorem readRow_of_fits {f : Format} (hf : f ∈ formats) {w : Word} (h : w &&& f.row.mask = f.row.pattern) :
    readRow w = .command (f.read w) := by
  have hop := op_of_fits (row_mem_opcodeMap hf) h
  rw [readRow_of_op hf hop, (fits_iff_zeros hf hop).1 h]
  rfl

/-- A word with the `OP` of a row it does not fit has a must-be-zero bit set (R75 (b)). -/
theorem readRow_of_misfit {f : Format} (hf : f ∈ formats) {w : Word} (hop : fieldOp w = fieldOp f.row.pattern)
    (h : w &&& f.row.mask ≠ f.row.pattern) : readRow w = .reserved .mustBeZero := by
  have hzeros : (f.zeros.all fun z => zeroBits z.1 z.2 w) = false := by
    rw [← Bool.not_eq_true, ← fits_iff_zeros hf hop]
    exact h
  rw [readRow_of_op hf hop, hzeros]
  rfl

/-- A word that fits a row is the word of the command its format reads. -/
theorem encode_read_of_fits {f : Format} (hf : f ∈ formats) {w : Word} (h : w &&& f.row.mask = f.row.pattern) :
    encode (f.read w) = w := by
  calc encode (f.read w) = f.row.pattern ||| (w &&& ~~~f.row.mask) := encode_read hf w
    _ = (w &&& f.row.mask) ||| (w &&& ~~~f.row.mask) := by rw [h]
    _ = w := by
      apply BitVec.eq_of_getLsbD_eq
      intro k hk
      simp [hk, ← Bool.and_or_distrib_left]

/-- A word read as a command fits a row, whose format reads that command (R74). -/
theorem fits_of_readRow_command {w : Word} {i : Instr} (h : readRow w = .command i) :
    ∃ f ∈ formats, w &&& f.row.mask = f.row.pattern ∧ f.read w = i := by
  by_cases hop : ∃ r ∈ opcodeMap, fieldOp w = fieldOp r.pattern
  · obtain ⟨r, hr, hop⟩ := hop
    obtain ⟨f, hf, rfl⟩ := exists_format_of_row hr
    by_cases hbits : w &&& f.row.mask = f.row.pattern
    · rw [readRow_of_fits hf hbits] at h
      cases h
      exact ⟨f, hf, hbits, rfl⟩
    · simp [readRow_of_misfit hf hop hbits] at h
  · have hunused : ∀ r ∈ opcodeMap, fieldOp w ≠ fieldOp r.pattern := by simpa using hop
    simp [readRow_of_unused hunused] at h

/-- `readRow` reads a command off its own word, `LANE` = 3 included. -/
theorem readRow_encode (i : Instr) : readRow (encode i) = .command i := by
  obtain ⟨f, hf, hname, hread⟩ := exists_format_reading i
  obtain ⟨r, hr, hname', hbits⟩ := encode_fits_row i
  obtain rfl : r = f.row := row_eq_of_mnemonic r hr f.row (row_mem_opcodeMap hf) (hname'.trans hname.symm)
  rw [readRow_of_fits hf hbits, hread]

/-- The command `readRow` reads off a word, and the word of the command, determine each other. -/
theorem readRow_eq_command_iff (w : Word) (i : Instr) : readRow w = .command i ↔ encode i = w := by
  constructor
  · intro h
    obtain ⟨f, hf, hbits, rfl⟩ := fits_of_readRow_command h
    exact encode_read_of_fits hf hbits
  · rintro rfl
    exact readRow_encode i

/-! ### Decoding -/

/-- A word decodes to a command exactly when it is the word of the command and `LANE` is not 3 (R75 (c), R76). -/
theorem decode_eq_command_iff (w : Word) (i : Instr) : decode w = .command i ↔ encode i = w ∧ WellFormed i := by
  rw [← readRow_eq_command_iff]
  unfold decode
  cases readRow w with
  | reserved why => simp
  | command j =>
    simp only [Decoded.command.injEq]
    split
    · rename_i hwf
      simp only [Decoded.command.injEq]
      exact ⟨fun h => ⟨h, h ▸ hwf⟩, And.left⟩
    · rename_i hwf
      exact ⟨nofun, fun h => absurd (h.1 ▸ h.2) hwf⟩

/-- Settles O1 (R70, R71, R73): `readRow` reads every command off its own word, and `decode` refuses only `LANE` = 3. -/
theorem decodeOfEncodeIsTheCommand : Obligations.DecodeOfEncodeIsTheCommand := by
  intro i hwf
  exact (decode_eq_command_iff _ i).2 ⟨rfl, hwf⟩

/-- Settles O2 (R71, R76): a word that is read fits its row, so that no bit of it is ignored. -/
theorem encodeOfDecodeIsTheWord : Obligations.EncodeOfDecodeIsTheWord := by
  intro w i h
  exact (decode_eq_command_iff w i).1 h

/-- A word fits a row exactly when it is read as a command of the row (R74). -/
theorem fits_iff_command {r : Row} (hr : r ∈ opcodeMap) (w : Word) :
    w &&& r.mask = r.pattern ↔ ∃ i, readRow w = .command i ∧ i.mnemonic = r.mnemonic := by
  constructor
  · intro h
    obtain ⟨f, hf, rfl⟩ := exists_format_of_row hr
    exact ⟨f.read w, readRow_of_fits hf h, mnemonic_read hf w⟩
  · rintro ⟨i, hread, hname⟩
    obtain ⟨r', hr', hname', hbits⟩ := encode_fits_row i
    obtain rfl : r' = r := row_eq_of_mnemonic r' hr' r hr (hname'.trans hname)
    rwa [(readRow_eq_command_iff w i).1 hread] at hbits

theorem row_eq_of_fits {r r' : Row} (hr : r ∈ opcodeMap) (hr' : r' ∈ opcodeMap) {w : Word}
    (h : w &&& r.mask = r.pattern) (h' : w &&& r'.mask = r'.pattern) : r = r' :=
  row_eq_of_op r hr r' hr' ((op_of_fits hr h).symm.trans (op_of_fits hr' h'))

/-- Settles O3 (R74): a row is fitted by the words read as its commands, two rows that fit one word have the same `OP`,
and the word of every command fits a row. -/
theorem commandOfARowExactlyWhenMaskAndMatch : Obligations.CommandOfARowExactlyWhenMaskAndMatch := by
  refine ⟨rfl, fun r hr w => fits_iff_command hr w, fun r hr r' hr' w h h' => row_eq_of_fits hr hr' h h', ?named⟩
  intro w i _
  obtain ⟨r, hr, hname, -⟩ := encode_fits_row i
  exact ⟨r, hr, hname⟩

/-! ### Reserved words -/

theorem encode_injective {i j : Instr} (h : encode i = encode j) : i = j := by
  have hread := readRow_encode i
  rw [h, readRow_encode j] at hread
  cases hread
  rfl

/-- A word is the word of some command exactly when it fits some row (R74). -/
theorem exists_encode_iff_fits (w : Word) : (∃ i, encode i = w) ↔ ∃ r ∈ opcodeMap, w &&& r.mask = r.pattern := by
  constructor
  · rintro ⟨i, rfl⟩
    obtain ⟨r, hr, -, hbits⟩ := encode_fits_row i
    exact ⟨r, hr, hbits⟩
  · rintro ⟨r, hr, hbits⟩
    obtain ⟨i, hread, -⟩ := (fits_iff_command hr w).1 hbits
    exact ⟨i, (readRow_eq_command_iff w i).1 hread⟩

/-- A word is reserved when it is no command's, or the word of a command whose `LANE` is 3 (R75). -/
theorem decode_reserved_iff (w : Word) :
    (∃ why, decode w = .reserved why) ↔ (¬ ∃ i, encode i = w) ∨ ∃ i, encode i = w ∧ i.wf = false := by
  constructor
  · rintro ⟨why, h⟩
    by_cases hw : ∃ i, encode i = w
    · obtain ⟨i, hi⟩ := hw
      refine .inr ⟨i, hi, Bool.eq_false_iff.2 fun hwf => ?_⟩
      have hcommand := (decode_eq_command_iff w i).2 ⟨hi, hwf⟩
      simp [h] at hcommand
    · exact .inl hw
  · intro h
    cases hd : decode w with
    | reserved why => exact ⟨why, rfl⟩
    | command j =>
      obtain ⟨hj, hwf⟩ := (decode_eq_command_iff w j).1 hd
      rcases h with hnone | ⟨i, hi, hbad⟩
      · exact absurd ⟨j, hj⟩ hnone
      · obtain rfl := encode_injective (hi.trans hj.symm)
        exact absurd (hbad.symm.trans hwf) Bool.false_ne_true

/-- A word fits no row when its `OP` is no row's, or it misses the row of its `OP` (R75 (a), (b)). -/
theorem fits_none_iff (w : Word) :
    (¬ ∃ r ∈ opcodeMap, w &&& r.mask = r.pattern) ↔
      (fieldOp w = 0x0 ∨ 0xC ≤ fieldOp w) ∨
      ∃ r ∈ opcodeMap, fieldOp w = fieldOp r.pattern ∧ w &&& r.mask ≠ r.pattern := by
  rw [op_unused_iff]
  constructor
  · intro hnone
    by_cases hop : ∃ r ∈ opcodeMap, fieldOp w = fieldOp r.pattern
    · obtain ⟨r, hr, hop⟩ := hop
      exact .inr ⟨r, hr, hop, fun hbits => hnone ⟨r, hr, hbits⟩⟩
    · exact .inl fun r hr heq => hop ⟨r, hr, heq⟩
  · rintro (hunused | ⟨r, hr, hop, hmiss⟩) ⟨r', hr', hbits⟩
    · exact hunused r' hr' (op_of_fits hr' hbits)
    · obtain rfl := row_eq_of_op r hr r' hr' (hop.symm.trans (op_of_fits hr' hbits))
      exact hmiss hbits

/-! `LANE` stands in the words of RS_UPDATE and RS_READ only (R71). -/

theorem fits_rsUpdate_iff (w : Word) :
    w &&& 0xFFFFFC00 = 0x20000000 ↔ ∃ lane data8, encode (.rsUpdate lane data8) = w := by
  have hname (i : Instr) : i.mnemonic = "RS_UPDATE" ↔ ∃ lane data8, i = .rsUpdate lane data8 := by
    cases i <;> simp [Instr.mnemonic]
  rw [fits_iff_command (r := ⟨"RS_UPDATE", 0x20000000, 0xFFFFFC00⟩) (by simp [opcodeMap])]
  simp only [readRow_eq_command_iff, hname]
  exact ⟨fun ⟨i, hi, lane, data8, e⟩ => ⟨lane, data8, e ▸ hi⟩, fun ⟨lane, data8, h⟩ => ⟨_, h, lane, data8, rfl⟩⟩

theorem fits_rsRead_iff (w : Word) :
    w &&& 0xFFFFFCE0 = 0x30000000 ↔ ∃ lane pos, encode (.rsRead lane pos) = w := by
  have hname (i : Instr) : i.mnemonic = "RS_READ" ↔ ∃ lane pos, i = .rsRead lane pos := by
    cases i <;> simp [Instr.mnemonic]
  rw [fits_iff_command (r := ⟨"RS_READ", 0x30000000, 0xFFFFFCE0⟩) (by simp [opcodeMap])]
  simp only [readRow_eq_command_iff, hname]
  exact ⟨fun ⟨i, hi, lane, pos, e⟩ => ⟨lane, pos, e ▸ hi⟩, fun ⟨lane, pos, h⟩ => ⟨_, h, lane, pos, rfl⟩⟩

theorem fieldLane_encode_rsUpdate (lane : BitVec 2) (data8 : Byte) : fieldLane (encode (.rsUpdate lane data8)) = lane := by
  simp [encode, fieldLane]

theorem fieldLane_encode_rsRead (lane : BitVec 2) (pos : BitVec 5) : fieldLane (encode (.rsRead lane pos)) = lane := by
  simp [encode, fieldLane]

/-- The words of the commands that are not well-formed (R75 (c)). -/
theorem encode_illFormed_iff (w : Word) :
    (∃ i, encode i = w ∧ i.wf = false) ↔
      (w &&& 0xFFFFFC00 = 0x20000000 ∨ w &&& 0xFFFFFCE0 = 0x30000000) ∧ fieldLane w = 3 := by
  rw [fits_rsUpdate_iff, fits_rsRead_iff]
  constructor
  · rintro ⟨i, rfl, hwf⟩
    cases i with
    | rsUpdate lane data8 =>
      exact ⟨.inl ⟨lane, data8, rfl⟩, by simpa [fieldLane_encode_rsUpdate, Instr.wf] using hwf⟩
    | rsRead lane pos => exact ⟨.inr ⟨lane, pos, rfl⟩, by simpa [fieldLane_encode_rsRead, Instr.wf] using hwf⟩
    | _ => simp [Instr.wf] at hwf
  · rintro ⟨⟨lane, data8, rfl⟩ | ⟨lane, pos, rfl⟩, hlane⟩
    · exact ⟨_, rfl, by simpa [fieldLane_encode_rsUpdate, Instr.wf] using hlane⟩
    · exact ⟨_, rfl, by simpa [fieldLane_encode_rsRead, Instr.wf] using hlane⟩

theorem runWord_of_reserved {w : Word} {why : Reserved} (hd : decode w = .reserved why) (s : State) :
    runWord w s = .next (reservedWord w s) := by simp [runWord, hd]

/-- Settles O4 (R75, R217): a reserved word fits no row, or is the word of a command with `LANE` = 3; its step is
`reservedWord`, which raises the fault. -/
theorem reservedWordsInFullRaiseIllegal : Obligations.ReservedWordsInFullRaiseIllegal := by
  refine ⟨?kinds, ⟨.opcode, rfl⟩, ⟨.opcode, rfl⟩, ?faults⟩
  case kinds =>
    intro w
    rw [decode_reserved_iff, exists_encode_iff_fits, fits_none_iff, encode_illFormed_iff, or_assoc]
    rfl
  case faults =>
    intro w why rest s hd hi noFault
    have hchecked : reservedWord w { s with inputs := rest } = raiseFault .illegal w { s with inputs := rest } :=
      runChecked_some (s := { s with inputs := rest }) noFault w .illegal _
    rw [step_of_command hi, runWord_of_reserved hd, hchecked]
    rfl

/-- Settles O5 (R70, R71): each word is decoded by evaluation. -/
theorem sampleWordsDecode : Obligations.SampleWordsDecode := by
  unfold Obligations.SampleWordsDecode
  decide

/-! ### The assembler -/

theorem oneBit_eq_some_iff (n : Nat) (b : Bool) : oneBit n = some b ↔ b.toNat = n := by
  unfold oneBit
  split
  · rename_i h; cases b <;> simp [h]
  · split
    · rename_i h; cases b <;> simp [h]
    · cases b <;> simp <;> omega

theorem fieldOf_eq_some_iff (width n : Nat) (v : BitVec width) : fieldOf width n = some v ↔ v.toNat = n := by
  have hv := v.isLt
  unfold fieldOf
  split
  · rename_i h
    rw [Option.some_inj, ← BitVec.toNat_inj, BitVec.toNat_ofNat, Nat.mod_eq_of_lt h, eq_comm]
  · simp
    omega

/-- The assembler's `LANE` is the field, 3 refused (R79). -/
theorem laneField_eq_some_iff (n : Nat) (lane : BitVec 2) : laneField n = some lane ↔ lane ≠ 3 ∧ lane.toNat = n := by
  have hlane : lane ≠ 3 ↔ lane.toNat ≠ 3 := by simp [← BitVec.toNat_inj]
  have hlt := lane.isLt
  unfold laneField
  split
  · rw [Option.some_inj, ← BitVec.toNat_inj, BitVec.toNat_ofNat, hlane]
    omega
  · simp only [hlane]
    simp
    omega

@[simp] theorem oneBit_toNat (b : Bool) : oneBit b.toNat = some b := (oneBit_eq_some_iff _ b).2 rfl
@[simp] theorem fieldOf_toNat {width : Nat} (v : BitVec width) : fieldOf width v.toNat = some v :=
  (fieldOf_eq_some_iff width _ v).2 rfl

/-- The line of a well-formed command is accepted as that command. -/
theorem assembleCommand_operandsOf {i : Instr} (h : WellFormed i) :
    assembleCommand i.mnemonic (operandsOf i) = some i := by
  cases i with
  | rsUpdate lane data8 =>
    have hlane : laneField lane.toNat = some lane :=
      (laneField_eq_some_iff _ lane).2 ⟨by simpa [WellFormed, Instr.wf] using h, rfl⟩
    simp [Instr.mnemonic, operandsOf, assembleCommand, hlane]
  | rsRead lane pos =>
    have hlane : laneField lane.toNat = some lane :=
      (laneField_eq_some_iff _ lane).2 ⟨by simpa [WellFormed, Instr.wf] using h, rfl⟩
    simp [Instr.mnemonic, operandsOf, assembleCommand, hlane]
  | _ => simp [Instr.mnemonic, operandsOf, assembleCommand]

/-- A line that is accepted is the line of a well-formed command, one case for each line of `assembleCommand`. -/
theorem of_assembleCommand {mnemonic : String} {operands : List Nat} {i : Instr}
    (h : assembleCommand mnemonic operands = some i) :
    WellFormed i ∧ i.mnemonic = mnemonic ∧ operandsOf i = operands := by
  unfold assembleCommand at h
  split at h
  all_goals
    simp only [Option.bind_eq_bind, Option.pure_def, Option.bind_eq_some_iff, Option.some.injEq, oneBit_eq_some_iff,
      fieldOf_eq_some_iff, laneField_eq_some_iff, reduceCtorEq] at h
  case h_1 | h_5 => subst h; exact ⟨rfl, rfl, rfl⟩
  case h_2 | h_3 =>
    obtain ⟨lane, ⟨hlane, rfl⟩, field, rfl, rfl⟩ := h
    exact ⟨by simpa [WellFormed, Instr.wf] using hlane, rfl, rfl⟩
  case h_4 | h_9 | h_10 | h_11 =>
    obtain ⟨field, rfl, rfl⟩ := h
    exact ⟨rfl, rfl, rfl⟩
  case h_7 | h_8 =>
    obtain ⟨b, rfl, field, rfl, rfl⟩ := h
    exact ⟨rfl, rfl, rfl⟩
  case h_6 =>
    obtain ⟨b, rfl, idx, rfl, sym, rfl, rfl⟩ := h
    exact ⟨rfl, rfl, rfl⟩

/-- Settles O6 (R79): an accepted line is read back from its command, and the line of a command is accepted. -/
theorem assemblerSpellsExactlyTheLegalCommands : Obligations.AssemblerSpellsExactlyTheLegalCommands := by
  intro mnemonic operands i
  constructor
  · exact of_assembleCommand
  · rintro ⟨hwf, rfl, rfl⟩
    exact assembleCommand_operandsOf hwf

theorem mapM_fieldOf_toNat (bytes : List Byte) : (bytes.map BitVec.toNat).mapM (fieldOf 8) = some bytes := by
  induction bytes with
  | nil => rfl
  | cons d rest ih => simp [List.mapM_cons, ih]

theorem length_frameCommands (b ls last : Bool) (bytes : List Byte) :
    (frameCommands b ls last bytes).length = bytes.length + 2 := by simp [frameCommands]

/-- Settles O7 (R80): every operand is read back from its number; `FRAME` then lists the words of `frameCommands`. -/
theorem pseudoInstructionsExpand : Obligations.PseudoInstructionsExpand := by
  refine ⟨fun b ls last bytes => ⟨?frame, length_frameCommands b ls last bytes⟩, ?word⟩
  case frame =>
    simp only [assemble, oneBit_toNat, mapM_fieldOf_toNat, Option.bind_eq_bind, Option.bind_some, Option.pure_def]
    simp [frameCommands]
  case word =>
    intro w
    simp [assemble]

/-! ### The answer of a command word -/

/-- A command answers once, `flt` being `FAULT` after it, and leaves the port alone (R77). -/
theorem exec_answers (i : Instr) (s : State) :
    ∃ t rsp, exec i s = .next t ∧ t.inputs = s.inputs ∧ t.out = .response rsp t.fault := by
  rcases exec_cases i s with ⟨hfault, -, e⟩ | ⟨c, -, -, -, e⟩ | ⟨-, -, e⟩
  · exact ⟨_, 0, e, rfl, by simp [hfault]⟩
  · exact ⟨_, 0, e, rfl, rfl⟩
  · obtain ⟨-, hfault, -, -, hinputs, -, -, rsp, hout⟩ := effectOf_frame i s
    exact ⟨_, rsp, e, hinputs, by rw [hfault, hout]⟩

theorem reservedWord_answers (w : Word) (s : State) :
    (reservedWord w s).inputs = s.inputs ∧ (reservedWord w s).out = .response 0 (reservedWord w s).fault := by
  unfold reservedWord
  rcases runChecked_cases w (some .illegal) s s with ⟨hfault, e⟩ | ⟨c, -, -, e⟩ | ⟨-, hnone, -⟩
  · rw [e]; exact ⟨rfl, by simp [hfault]⟩
  · rw [e]; exact ⟨rfl, rfl⟩
  · cases hnone

/-- Settles O9 (R77): a word is a command or reserved, and either way it is answered. -/
theorem everyCommandIsAnsweredOnce : Obligations.EveryCommandIsAnsweredOnce := by
  intro s w rest hi
  rw [step_of_command hi]
  rcases runWord_cases w { s with inputs := rest } with ⟨i, -, e⟩ | ⟨why, -, e⟩
  · rw [e]
    exact exec_answers i _
  · obtain ⟨hinputs, hout⟩ := reservedWord_answers w { s with inputs := rest }
    exact ⟨_, 0, e, hinputs, hout⟩

/-! ### The share of a lane -/

/-- Of `m` byte numbers in a row from 0, lane `l` is given every third one (R86, R106). -/
theorem length_filter_laneOf (m : Nat) (l : Lane) :
    ((List.range m).filter fun k => laneOf k == l).length = (m - l.val + 2) / 3 := by
  have hl := l.isLt
  induction m with
  | zero => simp
  | succ m ih =>
    rw [List.range_succ, List.filter_append, List.length_append, ih]
    have hlane : laneOf m = l ↔ m % 3 = l.val := Fin.ext_iff
    by_cases h : m % 3 = l.val
    · simp [hlane.2 h]; omega
    · simp [mt hlane.1 h]; omega

/-- The share of a lane is as long as the list of its byte numbers. -/
theorem length_laneBytes (l : Lane) (bytes : List Byte) :
    (laneBytes l 0 bytes).length = (bytes.length - l.val + 2) / 3 := by
  have hnumbers : (bytes.zipIdx 0).map Prod.snd = List.range bytes.length := by
    simp [List.range_eq_range']
  rw [← length_filter_laneOf, ← hnumbers, List.filter_map, List.length_map, laneBytes, List.length_map]
  have hlane : (fun x : Byte × Nat => x.2 % 3 == l.val) = (fun k => laneOf k == l) ∘ Prod.snd := by
    funext x
    simp [Bool.beq_eq_decide_eq, laneOf, Fin.ext_iff]
  rw [hlane]

/-- `push_byte` steps the lane of `BIDX` and no other (R106, R173). -/
theorem pushByte_lane (s : State) (b : Byte) (l : Lane) :
    (pushByte b s).p[l] = if laneOf s.bidx.toNat = l then rsUpdate s.params s.p[l] b else s.p[l] := by
  rw [pushByte_p, updateLane_p]
  split
  · rename_i h; subst h; simp
  · rename_i h
    exact Vector.getElem_set_ne _ _ fun e => h (Fin.ext e)

theorem length_protectedBytes (params : Params) (data : List Byte) :
    (protectedBytes params data).length = data.length + 4 := by simp [protectedBytes]

/-- Settles O44 (R86, R106, R173): the lane of a pushed byte, the count of the byte numbers of a lane, and the share of
a lane as such a count. -/
theorem eachLaneReceivesItsShare : Obligations.EachLaneReceivesItsShare := by
  refine ⟨fun s b l => ⟨pushByte_lane s b l, pushByte_bidx s b⟩, fun n l => length_filter_laneOf (n + 4) l, ?share⟩
  intro params data l
  rw [length_laneBytes, length_protectedBytes]

/-! ### The finished frame -/

theorem length_frameTail (crc : List Byte) (p : Vector Accumulator 3) (last : Bool) :
    (frameTail crc p last).length = crc.length + 96 + last.toNat := by
  cases last <;> simp [frameTail, optionalComma]

theorem length_frameInputs (params : Params) (ls : Bool) (data : List Byte) (last : Bool) :
    (frameInputs params ls data last).length = ls.toNat + data.length + 4 + 96 + last.toNat := by
  rw [frameInputs, List.length_append, length_frameHead, length_frameTail, length_crcBytes]; omega

section
variable {s : State} {ls rd0 : Bool} {data : List Byte} (h : FrameContent s ls rd0 data)
include h

/-- The CRC bytes FRAME_END pushes are those of the frame (R175). -/
theorem FrameContent.crcBytes_eq :
    crcBytes s.params (s.crc ^^^ crcXorOut) = crcBytes s.params (frameCrc s.params data ^^^ crcXorOut) := by rw [h.crc]

/-- The accumulators after the CRC bytes are the parity of the protected bytes (R106, R176). -/
theorem FrameContent.pushCrc_lane (l : Lane) (fits : data.length + 4 ≤ 65535) :
    (pushCrc s).p[l] = laneParity s.params l (protectedBytes s.params data) := by
  have hlanes := pushBytes_p (crcBytes s.params (s.crc ^^^ crcXorOut)) s l (by simp [h.bytes]; omega)
  rw [pushCrc, hlanes, h.parity l, h.bytes, h.crcBytes_eq]
  simp [laneParity, accumulatorAfter, protectedBytes, laneBytes_append]

theorem FrameContent.pushCrc_p (fits : data.length + 4 ≤ 65535) : (pushCrc s).p = frameParity s.params data := by
  apply Vector.ext
  intro k hk
  have hlane := h.pushCrc_lane ⟨k, hk⟩ fits
  simpa [frameParity] using hlane

/-- The line inputs FRAME_END appends are the tail of the frame's (R85). -/
theorem FrameContent.frameInputs_eq (last : Bool) (fits : data.length + 4 ≤ 65535) :
    frameInputs s.params ls data last =
      frameHead ls data ++ frameTail (crcBytes s.params (s.crc ^^^ crcXorOut)) (pushCrc s).p last := by
  rw [h.pushCrc_p fits, h.crcBytes_eq, frameInputs]

end

/-- FRAME_END is accepted in a frame when its symbols fit (R176, R219). -/
theorem causeOf_frameEnd {s : State} {last : Bool} (phase : s.phase = .inFrame)
    (fits : s.sidx.toNat + 100 + last.toNat ≤ 3 * s.params.bufWords) : causeOf (.frameEnd last) s = none :=
  (causeOf_eq_none_iff _ s).2 ⟨rfl, by simp [allowedIn, phase], by simpa [overCapacity] using fits⟩

theorem exec_frameEnd {s : State} {last : Bool} (noFault : s.fault = false) (phase : s.phase = .inFrame)
    (fits : s.sidx.toNat + 100 + last.toNat ≤ 3 * s.params.bufWords) :
    exec (.frameEnd last) s = .next (effectOf (.frameEnd last) s) := by
  rw [exec_eq _ s rfl, causeOf_frameEnd phase fits, runChecked_none noFault]

/-- Settles O42 (R85, R86, R177, R178): FRAME_END appends the tail of the layout to the head the buffer holds, the
parity being that of the protected bytes; both are one stream from the disparity the frame began with. -/
theorem finishedFrameHasTheFrameLayout : Obligations.FinishedFrameHasTheFrameLayout := by
  intro s ls rd0 last data ys h noFault phase fits hys
  have hbound := s.params.bufWords_le
  have hsymbols := h.symbols
  have hdata : data.length + 4 ≤ 65535 := by omega
  have hinputs := h.frameInputs_eq last hdata
  have hlength : ys.length = ls.toNat + data.length + 4 + 96 + last.toNat := by
    rw [hys, length_streamSymbols, length_frameInputs]
  have hholds : HoldsSymbols (endFrame last s) ys := by
    have hend := h.holdsSymbols.endFrame last (by rw [length_streamSymbols, length_frameHead]; omega)
    rwa [h.disparity, ← streamSymbols_append, ← hinputs, ← hys] at hend
  have hrd : (endFrame last s).rd = streamState s.params rd0 (frameInputs s.params ls data last) := by
    rw [endFrame_rd, h.disparity, ← streamState_append, ← hinputs]
  have hother (w : Nat) (hw : ys.length ≤ 3 * w) : memRead (endFrame last s) s.curbuf w = memRead s s.curbuf w :=
    endFrame_other last s (by omega) s.curbuf w (by simp only [wordOfIndex]; omega)
  have hp (l : Lane) : (endFrame last s).p[l] = laneParity s.params l (protectedBytes s.params data) := by
    rw [(endFrame_registers last s).1]; exact h.pushCrc_lane l hdata
  have hsidx : (endFrame last s).sidx.setWidth 32 = BitVec.ofNat 32 ys.length := by
    rw [← hholds.count, BitVec.ofNat_toNat]
  obtain ⟨-, hcrc, hcurbuf, hfault, -⟩ := endFrame_frame last s
  refine ⟨_, exec_frameEnd noFault phase fits, hlength, hholds.count, ?out, ?words, hother, hrd, hp, hcrc.trans h.crc⟩
  case out => rw [effectOf, respond_out, hsidx, hfault, noFault]
  case words =>
    rw [← hcurbuf]
    exact hholds.words

/-! ### The run of the commands of FRAME -/

theorem runSteps_of_step {t u : State} (h : step t = .next u) (n : Nat) : runSteps (n + 1) t = runSteps n u := by
  simp [runSteps, h]

theorem causeOf_with_inputs (i : Instr) (t : State) (ins : List Input) :
    causeOf i { t with inputs := ins } = causeOf i t := causeOf_withPorts ins t.out t.draws i t

/-- The step on the word of a command that none of the checks turns away is the command's effect (R76, R212). -/
theorem step_of_issued {t : State} {i : Instr} {commands : List Instr} {rest : List Input}
    (hi : t.inputs = issued (i :: commands) ++ rest) (noFault : t.fault = false) (accepted : causeOf i t = none) :
    step t = .next (effectOf i { t with inputs := issued commands ++ rest }) := by
  have hinputs : t.inputs = .command (encode i) :: (issued commands ++ rest) := hi
  have hwf : WellFormed i := ((causeOf_eq_none_iff i t).1 accepted).1
  rw [step_of_command hinputs, runWord_of_decode (decodeOfEncodeIsTheCommand i hwf)]
  rcases exec_cases i { t with inputs := issued commands ++ rest } with ⟨hf, -, -⟩ | ⟨c, -, -, hc, -⟩ | ⟨-, -, e⟩
  · exact absurd (noFault.symm.trans hf) Bool.false_ne_true
  · rw [causeOf_with_inputs, accepted] at hc
    cases hc
  · exact e

/-- The frame of buffer `b` that FRAME_BEGIN began in the idle state `s`, after its data bytes so far: the block holds
it, and has written no word past its last symbol and no word of the other buffer. -/
structure FrameRun (s : State) (b ls : Bool) (data : List Byte) (t : State) : Prop where
  content : FrameContent t ls s.rd data
  params : t.params = s.params
  noFault : t.fault = false
  phase : t.phase = .inFrame
  curbuf : t.curbuf = b
  otherBuffer : ∀ w, memRead t (!b) w = memRead s (!b) w
  pastEnd : ∀ w, t.sidx.toNat ≤ 3 * w → memRead t b w = memRead s b w

theorem FrameRun.with_inputs {s t : State} {b ls : Bool} {data : List Byte} (h : FrameRun s b ls data t)
    (ins : List Input) : FrameRun s b ls data { t with inputs := ins } := by
  obtain ⟨hcontent, hparams, hfault, hphase, hcurbuf, hother, hpast⟩ := h
  exact ⟨hcontent.with_others _ _ _ _ ins _ _, hparams, hfault, hphase, hcurbuf, hother, hpast⟩

theorem causeOf_frameBegin {s : State} (idle : s.phase = .idle) (b ls : Bool) : causeOf (.frameBegin b ls) s = none :=
  (causeOf_eq_none_iff _ s).2 ⟨rfl, by simp [allowedIn, idle], rfl⟩

/-- FRAME_BEGIN begins the run (R172). -/
theorem frameRun_frameBegin {s : State} (noFault : s.fault = false) (idle : s.phase = .idle) (b ls : Bool) :
    FrameRun s b ls [] (effectOf (.frameBegin b ls) s) where
  content := frameContent_frameBegin b ls s
  params := (effectOf_frame _ s).1
  noFault := (effectOf_frame _ s).2.1.trans noFault
  phase := by cases ls <;> rfl
  curbuf := by cases ls <;> rfl
  otherBuffer := memRead_effectOf (causeOf_frameBegin idle b ls) (by cases b <;> cases ls <;> rfl)
  pastEnd w hw := by
    rw [(effectOf_frameBegin_indices b ls s).2] at hw
    cases ls with
    | false => rfl
    | true =>
      have hword : ¬ (b = b ∧ w = wordOfIndex (0 : Index).toNat) := by
        rintro ⟨-, rfl⟩
        simp [wordOfIndex] at hw
      have hsync := memRead_emitCoded (beginFrame b false s) (encSync s.rd) b w
      exact hsync.trans (if_neg hword)

/-- FRAME_DATA goes on with the run (R174). -/
theorem FrameRun.frameData {s t : State} {b ls : Bool} {data : List Byte} (h : FrameRun s b ls data t) (d : Byte)
    (accepted : causeOf (.frameData d) t = none) : FrameRun s b ls (data ++ [d]) (effectOf (.frameData d) t) := by
  have fits := lt_of_overCapacity_frameData ((causeOf_eq_none_iff _ t).1 accepted).2.2
  obtain ⟨hparams, hfault, -⟩ := effectOf_frame (.frameData d) t
  refine ⟨h.content.frameData d fits, hparams.trans h.params, hfault.trans h.noFault, h.phase, h.curbuf, ?other, ?past⟩
  case other =>
    intro w
    rw [← h.otherBuffer w]
    exact memRead_effectOf accepted (by simp [mayWriteBuffer, h.curbuf]) w
  case past =>
    intro w hw
    have hsidx : (effectOf (.frameData d) t).sidx.toNat = t.sidx.toNat + 1 := toNat_succ_of_fits fits
    rw [← h.pastEnd w (by omega)]
    have hword : ¬ (b = t.curbuf ∧ w = wordOfIndex t.sidx.toNat) := by
      rintro ⟨-, rfl⟩
      simp only [wordOfIndex] at hw
      omega
    have hpush := memRead_pushByte { t with crc := crcStep t.params t.crc d } d b w
    exact hpush.trans (if_neg hword)

section
variable {s t : State} {b ls last : Bool} {data : List Byte} {rest : List Input}

/-- The step on the word of FRAME_BEGIN (R172). -/
theorem frameRun_step_frameBegin {commands : List Instr} (noFault : s.fault = false) (idle : s.phase = .idle)
    (hi : s.inputs = issued (.frameBegin b ls :: commands) ++ rest) :
    ∃ t, step s = .next t ∧ FrameRun s b ls [] t ∧ t.inputs = issued commands ++ rest := by
  have hstep := step_of_issued hi noFault (causeOf_frameBegin idle b ls)
  obtain ⟨hcontent, hparams, hfault, hphase, hcurbuf, hother, hpast⟩ :=
    frameRun_frameBegin (s := { s with inputs := issued commands ++ rest }) noFault idle b ls
  exact ⟨_, hstep, ⟨hcontent, hparams, hfault, hphase, hcurbuf, hother, hpast⟩, (effectOf_frame _ _).2.2.2.2.1⟩

/-- The step on the word of FRAME_DATA while the byte fits (R174). -/
theorem FrameRun.step_frameData {d : Byte} {commands : List Instr} (h : FrameRun s b ls data t)
    (hi : t.inputs = issued (.frameData d :: commands) ++ rest)
    (fits : ls.toNat + data.length < 3 * s.params.bufWords) :
    ∃ u, step t = .next u ∧ FrameRun s b ls (data ++ [d]) u ∧ u.inputs = issued commands ++ rest := by
  have hfits : t.sidx.toNat < 3 * t.params.bufWords := by rwa [h.content.symbols, h.params]
  have accepted : causeOf (.frameData d) t = none :=
    (causeOf_eq_none_iff _ t).2 ⟨rfl, by simp [allowedIn, h.phase], by simpa [overCapacity] using hfits⟩
  have hstep := step_of_issued hi h.noFault accepted
  have hrun := (h.with_inputs (issued commands ++ rest)).frameData d ((causeOf_with_inputs _ t _).trans accepted)
  exact ⟨_, hstep, hrun, (effectOf_frame _ _).2.2.2.2.1⟩

/-- The steps on the words of FRAME_DATA, by induction on the bytes still to come (R80). -/
theorem FrameRun.runSteps_frameData {todo : List Byte} {commands : List Instr} (h : FrameRun s b ls data t)
    (hi : t.inputs = issued (todo.map .frameData ++ commands) ++ rest)
    (fits : ls.toNat + data.length + todo.length ≤ 3 * s.params.bufWords) :
    ∃ u, FrameRun s b ls (data ++ todo) u ∧ u.inputs = issued commands ++ rest ∧
      ∀ n, runSteps (n + todo.length) t = runSteps n u := by
  induction todo generalizing data t with
  | nil => exact ⟨t, by rwa [List.append_nil], hi, fun n => rfl⟩
  | cons d todo ih =>
    rw [List.length_cons] at fits
    obtain ⟨v, hstep, hv, hvi⟩ := h.step_frameData hi (by omega)
    obtain ⟨u, hu, hui, hrun⟩ := ih hv hvi (by simp; omega)
    refine ⟨u, by simpa using hu, hui, fun n => ?_⟩
    rw [List.length_cons, ← Nat.add_assoc, runSteps_of_step hstep, hrun]

theorem FrameRun.accepts_frameEnd (h : FrameRun s b ls data t)
    (fits : ls.toNat + data.length + 100 + last.toNat ≤ 3 * s.params.bufWords) :
    causeOf (.frameEnd last) t = none := by
  have hfits : t.sidx.toNat + 100 + last.toNat ≤ 3 * t.params.bufWords := by
    rw [h.params, h.content.symbols]
    omega
  exact causeOf_frameEnd h.phase hfits

/-- What FRAME_END leaves in the buffer of the run, as O42 says it (R85, R176). -/
theorem FrameRun.frameEnd_layout {ys : List Symbol} (h : FrameRun s b ls data t)
    (fits : ls.toNat + data.length + 100 + last.toNat ≤ 3 * s.params.bufWords)
    (hys : ys = streamSymbols s.params s.rd (frameInputs s.params ls data last)) :
    (effectOf (.frameEnd last) t).sidx.toNat = ys.length ∧
    (effectOf (.frameEnd last) t).out = .response (BitVec.ofNat 32 ys.length) false ∧
    (∀ w, 3 * w < ys.length → memRead (effectOf (.frameEnd last) t) b w = packedWord ys w) ∧
    (∀ w, ys.length ≤ 3 * w → memRead (effectOf (.frameEnd last) t) b w = memRead s b w) ∧
    (effectOf (.frameEnd last) t).rd = streamState s.params s.rd (frameInputs s.params ls data last) := by
  have hsymbols := h.content.symbols
  have hfits : t.sidx.toNat + 100 + last.toNat ≤ 3 * t.params.bufWords := by rw [h.params]; omega
  obtain ⟨u, hexec, hlength, hsidx, hout, hwords, hpast, hrd, -⟩ :=
    finishedFrameHasTheFrameLayout t ls s.rd last data ys h.content h.noFault h.phase hfits (h.params ▸ hys)
  rw [exec_frameEnd h.noFault h.phase hfits, Host.Outcome.next.injEq] at hexec
  subst hexec
  rw [h.curbuf] at hwords hpast
  rw [h.params] at hrd
  exact ⟨hsidx, hout, hwords, fun w hw => (hpast w hw).trans (h.pastEnd w (by omega)), hrd⟩

/-- What FRAME_END leaves beside the layout: the block idle with no fault, and the other buffer (R176). -/
theorem FrameRun.frameEnd_frame (h : FrameRun s b ls data t) (accepted : causeOf (.frameEnd last) t = none) :
    (effectOf (.frameEnd last) t).inputs = t.inputs ∧ (effectOf (.frameEnd last) t).phase = .idle ∧
    (effectOf (.frameEnd last) t).fault = false ∧ (effectOf (.frameEnd last) t).curbuf = b ∧
    ∀ w, memRead (effectOf (.frameEnd last) t) (!b) w = memRead s (!b) w := by
  obtain ⟨-, hfault, -, -, hinputs, -⟩ := effectOf_frame (.frameEnd last) t
  obtain ⟨-, -, hcurbuf, -⟩ := endFrame_frame last t
  refine ⟨hinputs, rfl, hfault.trans h.noFault, hcurbuf.trans h.curbuf, fun w => ?other⟩
  rw [← h.otherBuffer w]
  exact memRead_effectOf accepted (by simp [mayWriteBuffer, h.curbuf]) w

end

/-- Settles O43 (R80, R170, R177): FRAME_BEGIN begins the run, each FRAME_DATA adds its byte to it, and FRAME_END, which
is accepted, leaves the layout of O42. -/
theorem frameCommandsProduceTheWholeFrame : Obligations.FrameCommandsProduceTheWholeFrame := by
  intro s b ls last data rest ys noFault idle fits hi hys
  obtain ⟨t, hbegin, ht, hti⟩ :=
    frameRun_step_frameBegin (commands := data.map .frameData ++ [.frameEnd last]) noFault idle hi
  obtain ⟨u, hu, hui, hdata⟩ := ht.runSteps_frameData hti (by simp; omega)
  rw [List.nil_append] at hu
  have accepted : causeOf (.frameEnd last) u = none := hu.accepts_frameEnd fits
  have hend := step_of_issued (commands := []) hui hu.noFault accepted
  have hsteps : runSteps (data.length + 2) s = .next (effectOf (.frameEnd last) { u with inputs := rest }) := by
    calc runSteps (data.length + 2) s = runSteps (1 + data.length) t := by
          rw [← runSteps_of_step hbegin]; congr 1; omega
      _ = runSteps 1 u := hdata 1
      _ = _ := runSteps_of_step hend 0
  obtain ⟨hinputs, hphase, hfault, hcurbuf, hother⟩ :=
    (hu.with_inputs rest).frameEnd_frame ((causeOf_with_inputs _ u rest).trans accepted)
  obtain ⟨hsidx, hout, hwords, hpast, hrd⟩ := (hu.with_inputs rest).frameEnd_layout fits hys
  exact ⟨_, hsteps, hinputs, hphase, hfault, hcurbuf, hsidx, hout, hwords, hpast, hother, hrd⟩

end Sys2Proof.Machine
end

section
/-! Proofs of the family `spec/40_rs_parity.md`. -/

namespace Sys2Proof.Machine

/-! ### The table product -/

theorem gfMul_zero_left (params : Params) (y : Byte) : gfMul params 0 y = 0 := if_pos (.inl rfl)
theorem gfMul_zero_right (params : Params) (x : Byte) : gfMul params x 0 = 0 := if_pos (.inr rfl)

theorem gfMul_of_ne_zero {params : Params} {x y : Byte} (hx : x ≠ 0) (hy : y ≠ 0) : gfMul params x y =
    antilog params ((tableEntry params.gfIndex x).toNat + (tableEntry params.gfIndex y).toNat) :=
  if_neg (not_or.2 ⟨hx, hy⟩)

/-- Settles O23 (R102): a zero factor is tested first; otherwise the antilog reads the table at the sum mod 255. -/
theorem productIsTheAntilogOfTheSumOfLogs : Obligations.ProductIsTheAntilogOfTheSumOfLogs := by
  intro params x y
  constructor
  · rintro (rfl | rfl)
    · exact gfMul_zero_left params y
    · exact gfMul_zero_right params x
  · intro hx hy
    exact ⟨⟨_, Nat.mod_lt _ (by decide)⟩, gfMul_of_ne_zero hx hy, rfl⟩

/-! ### Legal tables -/

section
variable {params : Params} (h : LegalField params)
include h

/-- The log table undoes the antilog table on every byte, the marker 255 being the logarithm of zero (R101 (c), (d)). -/
theorem LegalField.index_alpha_leftInverse :
    Function.LeftInverse (tableEntry params.gfIndex) (tableEntry params.gfAlpha) := by
  intro z
  by_cases hz : z.toNat < 255
  · exact BitVec.eq_of_toNat_eq (h.index_alpha ⟨z.toNat, hz⟩)
  · obtain rfl : z = 255 := by bv_omega
    exact (congrArg (tableEntry params.gfIndex) h.alpha_last).trans h.index_zero

/-- There are as many logarithms as bytes, so the antilog table also undoes the log table. -/
theorem LegalField.tableEntry_alpha_index (x : Byte) :
    tableEntry params.gfAlpha (tableEntry params.gfIndex x) = x :=
  h.index_alpha_leftInverse.rightInverse_of_card_le le_rfl x

theorem LegalField.index_lt {x : Byte} (hx : x ≠ 0) : (tableEntry params.gfIndex x).toNat < 255 := by
  by_contra hge
  have hmarker : tableEntry params.gfIndex x = 255 := by bv_omega
  refine hx ?_
  calc x = tableEntry params.gfAlpha (tableEntry params.gfIndex x) := (h.tableEntry_alpha_index x).symm
    _ = 0 := hmarker ▸ h.alpha_last

theorem LegalField.antilog_index {x : Byte} (hx : x ≠ 0) :
    antilog params (tableEntry params.gfIndex x).toNat = x := by
  simp only [antilog, Nat.mod_eq_of_lt (h.index_lt hx)]
  exact h.tableEntry_alpha_index x

/-- The byte 0x01 is the one of the field: its logarithm is 0 (R101 (a)). -/
theorem LegalField.gfMul_one (x : Byte) : gfMul params x 1 = x := by
  by_cases hx : x = 0
  · rw [hx, gfMul_zero_left]
  · have hlog : (tableEntry params.gfIndex 1).toNat = 0 := h.alpha_zero ▸ h.index_alpha 0
    rw [gfMul_of_ne_zero hx (by decide), hlog, Nat.add_zero, h.antilog_index hx]

end

/-! ### Multiplication by 0x02 -/

section
variable (poly : BitVec 9)

/-- Bit `i` comes from bit `i - 1`, and from the field polynomial when bit 7 is shifted out (R101 (e)). -/
theorem getLsbD_timesTwo (x : Byte) {i : Nat} (hi : i < 8) :
    (timesTwo poly x).getLsbD i =
      ((decide (0 < i) && x.getLsbD (i - 1)) ^^ (x.getLsbD 7 && poly.getLsbD i)) := by
  have htop : (x.setWidth 9 <<< 1).getLsbD 8 = x.getLsbD 7 := by simp
  rw [timesTwo, htop]
  cases x.getLsbD 7 <;> simp [hi, Nat.lt_succ_of_lt hi, Nat.sub_lt_of_lt hi, Nat.pos_iff_ne_zero]

theorem timesTwo_xor (x y : Byte) : timesTwo poly (x ^^^ y) = timesTwo poly x ^^^ timesTwo poly y := by
  refine BitVec.eq_of_getLsbD_eq fun i hi => ?_
  simp only [getLsbD_timesTwo _ _ hi, BitVec.getLsbD_xor, Bool.and_xor_distrib_left, Bool.and_xor_distrib_right,
    Bool.xor_assoc, Bool.xor_left_comm]

theorem timesTwo_zero : timesTwo poly 0 = 0 := by simpa using timesTwo_xor poly 0 0

theorem timesTwo_twoPow {n : Nat} (hn : n < 7) : timesTwo poly (BitVec.twoPow 8 n) = BitVec.twoPow 8 (n + 1) := by
  refine BitVec.eq_of_getLsbD_eq fun i hi => ?_
  rw [getLsbD_timesTwo _ _ hi]
  simp only [BitVec.getLsbD_twoPow]
  grind

/-- A field polynomial with a constant term loses nothing: bit 0 of the result says whether bit 7 was shifted out. -/
theorem timesTwo_injective (hconst : poly.getLsbD 0 = true) : Function.Injective (timesTwo poly) := by
  intro x y h
  have hbit (i : Nat) (_ : i < 8) : (timesTwo poly x).getLsbD i = (timesTwo poly y).getLsbD i := by rw [h]
  have htop : x.getLsbD 7 = y.getLsbD 7 := by
    have h0 := hbit 0 (by decide)
    rw [getLsbD_timesTwo _ _ (by decide), getLsbD_timesTwo _ _ (by decide), hconst] at h0
    simpa only [Nat.lt_irrefl, decide_false, Bool.false_and, Bool.false_xor, Bool.and_true] using h0
  refine BitVec.eq_of_getLsbD_eq fun i _ => ?_
  rcases Nat.lt_or_ge i 7 with hlt | hge
  · have hi := hbit (i + 1) (by omega)
    rw [getLsbD_timesTwo _ _ (by omega), getLsbD_timesTwo _ _ (by omega), htop, Bool.xor_left_inj] at hi
    simpa using hi
  · rwa [show i = 7 by omega]

theorem timesTwoPower_eq_iterate (n : Nat) (x : Byte) : timesTwoPower poly n x = (timesTwo poly)^[n] x := by
  induction n with
  | zero => rfl
  | succ n ih => rw [timesTwoPower, ih, Function.iterate_succ_apply']

theorem timesTwoPower_one {n : Nat} (hn : n < 8) : timesTwoPower poly n 1 = BitVec.twoPow 8 n := by
  induction n with
  | zero => rfl
  | succ n ih => rw [timesTwoPower, ih (by omega), timesTwo_twoPow _ (by omega)]

end

theorem carrylessProduct_two (b : Nat) : carrylessProduct 2 b = 2 * b := by
  calc carrylessProduct 2 b = 0 ^^^ b <<< 1 := rfl
    _ = 2 * b := by rw [Nat.zero_xor, Nat.shiftLeft_eq]; omega

/-- A field polynomial has a constant term: without one it would be x times its other half. -/
theorem isFieldPoly.constant {params : Params} {poly : BitVec 9} (h : isFieldPoly params poly) :
    poly.getLsbD 0 = true := by
  obtain ⟨hdegree, hirreducible, -⟩ := h
  by_contra heven
  have hge : 2 ^ 8 ≤ poly.toNat := Nat.ge_two_pow_of_testBit hdegree
  have hmod : poly.toNat % 2 = 0 := by simpa [BitVec.getLsbD, Nat.testBit] using heven
  refine hirreducible 2 (by decide) le_rfl (poly.toNat / 2) (by omega) (by omega) ?_
  rw [carrylessProduct_two]
  omega

/-! ### The product of the field -/

section
variable (poly : BitVec 9)

theorem fieldProduct_zero_left (y : Byte) : fieldProduct poly 0 y = 0 := by
  have hpower (k : Nat) : timesTwoPower poly k 0 = 0 := by
    rw [timesTwoPower_eq_iterate, Function.iterate_fixed (timesTwo_zero poly)]
  exact List.foldl_fixed' (fun k => by rw [hpower]; split <;> rfl) _

theorem fieldProduct_zero_right (x : Byte) : fieldProduct poly x 0 = 0 :=
  List.foldl_fixed' (fun _ => by simp) _

/-- The sum of the powers of two at which the lowest `n` bits of `y` are set has those bits. -/
theorem getLsbD_sum_twoPow (y : Byte) (n : Nat) {i : Nat} (_ : i < 8) :
    ((List.range n).foldl (fun acc k => if y.getLsbD k then acc ^^^ BitVec.twoPow 8 k else acc) 0).getLsbD i =
      (decide (i < n) && y.getLsbD i) := by
  induction n with
  | zero => simp
  | succ n ih =>
    rw [List.range_succ, List.foldl_append, List.foldl_cons, List.foldl_nil]
    split
    · rw [BitVec.getLsbD_xor, ih, BitVec.getLsbD_twoPow]
      grind
    · rw [ih]
      grind

theorem fieldProduct_one_left (y : Byte) : fieldProduct poly 1 y = y := by
  have hpowers : fieldProduct poly 1 y =
      (List.range 8).foldl (fun acc k => if y.getLsbD k then acc ^^^ BitVec.twoPow 8 k else acc) 0 :=
    List.foldl_ext _ _ _ fun acc k hk => by rw [timesTwoPower_one poly (List.mem_range.1 hk)]
  rw [hpowers]
  refine BitVec.eq_of_getLsbD_eq fun i hi => ?_
  rw [getLsbD_sum_twoPow y 8 hi, decide_eq_true hi, Bool.true_and]

/-- A factor 0x02 can be taken out of the sum, multiplication by it being additive. -/
theorem fieldProduct_timesTwo (x y : Byte) :
    fieldProduct poly (timesTwo poly x) y = timesTwo poly (fieldProduct poly x y) := by
  unfold fieldProduct
  conv_lhs => rw [← timesTwo_zero poly]
  refine List.foldl_hom (timesTwo poly) fun acc k => ?_
  rw [apply_ite (timesTwo poly), timesTwo_xor, timesTwoPower_eq_iterate, timesTwoPower_eq_iterate,
    ← Function.iterate_succ_apply, Function.iterate_succ_apply']

theorem fieldProduct_timesTwoPower_one (n : Nat) (y : Byte) :
    fieldProduct poly (timesTwoPower poly n 1) y = timesTwoPower poly n y := by
  induction n with
  | zero => exact fieldProduct_one_left poly y
  | succ n ih => rw [timesTwoPower, fieldProduct_timesTwo, ih, timesTwoPower]

end

section
variable {params : Params} {poly : BitVec 9} (hfield : LegalField params) (hpoly : isFieldPoly params poly)
include hfield hpoly

/-- R101 (e): `GF_ALPHA[k]` is the `k`-th power of the element 0x02. -/
theorem alphaAt_eq_timesTwoPower (k : Fin 255) : alphaAt params k = timesTwoPower poly k.val 1 := by
  obtain ⟨k, hk⟩ := k
  obtain ⟨-, -, hstep⟩ := hpoly
  induction k with
  | zero => exact hfield.alpha_zero
  | succ k ih => exact (hstep ⟨k, by omega⟩).trans (congrArg (timesTwo poly) (ih (by omega)))

/-- The 255th power of 0x02 is 1. It is not zero, so it is an antilog; were it a later one than the first, 0x02 could be
cancelled, and the last of the 255 antilogs would be equal to an earlier one. -/
theorem timesTwo_isPeriodicPt : Function.IsPeriodicPt (timesTwo poly) 255 1 := by
  have hinjective := timesTwo_injective poly hpoly.constant
  have hpower (k : Fin 255) : alphaAt params k = (timesTwo poly)^[k.val] 1 := by
    rw [alphaAt_eq_timesTwoPower hfield hpoly, timesTwoPower_eq_iterate]
  have hlast : (timesTwo poly)^[255] 1 = timesTwo poly (alphaAt params 254) := by
    rw [hpower 254, ← Function.iterate_succ_apply' (timesTwo poly)]; rfl
  have hne : (timesTwo poly)^[255] 1 ≠ 0 := by
    rw [hlast, ← timesTwo_zero poly]
    exact hinjective.ne (hfield.alpha_nonzero 254)
  obtain ⟨k, hk⟩ : ∃ k, alphaAt params k = (timesTwo poly)^[255] 1 :=
    ⟨⟨_, hfield.index_lt hne⟩, hfield.tableEntry_alpha_index _⟩
  obtain ⟨_ | k, hlt⟩ := k
  · exact hk.symm.trans hfield.alpha_zero
  · rw [hpower, Function.iterate_succ_apply', hlast, ← hpower ⟨k, by omega⟩] at hk
    have hlater : k = 254 := congrArg Fin.val (hfield.alpha_once _ _ (hinjective hk))
    omega

theorem antilog_eq_timesTwoPower (n : Nat) : antilog params n = timesTwoPower poly n 1 := by
  calc antilog params n = timesTwoPower poly (n % 255) 1 :=
        alphaAt_eq_timesTwoPower hfield hpoly ⟨n % 255, Nat.mod_lt n (by decide)⟩
    _ = timesTwoPower poly n 1 := by
      rw [timesTwoPower_eq_iterate, timesTwoPower_eq_iterate,
        (timesTwo_isPeriodicPt hfield hpoly).iterate_mod_apply]

theorem timesTwoPower_index {x : Byte} (hx : x ≠ 0) :
    timesTwoPower poly (tableEntry params.gfIndex x).toNat 1 = x := by
  rw [← antilog_eq_timesTwoPower hfield hpoly, hfield.antilog_index hx]

end

/-- Settles O24 (R100 to R102): factors that are not zero are powers of 0x02; the table product adds their exponents,
and the product of the field multiplies by 0x02 as often as the first exponent says. -/
theorem legalTablesMultiplyInTheField : Obligations.LegalTablesMultiplyInTheField := by
  intro params poly hfield hpoly x y
  by_cases hx : x = 0
  · rw [hx, gfMul_zero_left, fieldProduct_zero_left]
  by_cases hy : y = 0
  · rw [hy, gfMul_zero_right, fieldProduct_zero_right]
  have hxi := timesTwoPower_index hfield hpoly hx
  have hyj := timesTwoPower_index hfield hpoly hy
  have hmul := gfMul_of_ne_zero (params := params) hx hy
  generalize (tableEntry params.gfIndex x).toNat = i at hxi hmul
  generalize (tableEntry params.gfIndex y).toNat = j at hyj hmul
  calc gfMul params x y = antilog params (i + j) := hmul
    _ = timesTwoPower poly (i + j) 1 := antilog_eq_timesTwoPower hfield hpoly (i + j)
    _ = timesTwoPower poly i (timesTwoPower poly j 1) := by
      simp only [timesTwoPower_eq_iterate, Function.iterate_add_apply]
    _ = timesTwoPower poly i y := by rw [hyj]
    _ = fieldProduct poly x y := by rw [← fieldProduct_timesTwoPower_one, hxi]

/-! ### Sums of polynomials -/

section
variable {a b : List Byte}

theorem polyAdd_assoc (a b c : List Byte) : polyAdd (polyAdd a b) c = polyAdd a (polyAdd b c) := by
  refine List.ext_getElem (by simp [polyAdd, Nat.min_assoc]) fun i _ _ => ?_
  simp [polyAdd, BitVec.xor_assoc]

theorem polyAdd_comm (a b : List Byte) : polyAdd a b = polyAdd b a :=
  List.zipWith_comm_of_comm fun x y => BitVec.xor_comm x y

theorem polyAdd_cons (x y : Byte) (a b : List Byte) : polyAdd (x :: a) (y :: b) = (x ^^^ y) :: polyAdd a b := rfl

theorem polyAdd_append (c d : List Byte) (h : a.length = b.length) :
    polyAdd (a ++ c) (b ++ d) = polyAdd a b ++ polyAdd c d := List.zipWith_append h

theorem polyAdd_zeros {n : Nat} (h : a.length = n) : polyAdd a (List.replicate n 0) = a := by
  refine List.ext_getElem (by simp [polyAdd, h]) fun i _ _ => ?_
  simp [polyAdd]

theorem zeros_polyAdd {n : Nat} (h : a.length = n) : polyAdd (List.replicate n 0) a = a := by
  rw [polyAdd_comm, polyAdd_zeros h]

end

/-! ### The shift register -/

section
variable (params : Params) (A : Accumulator) (c : Byte)

theorem getElem_rsUpdate {j : Nat} (hj : j < 31) :
    (rsUpdate params A c)[j] = A[j + 1] ^^^ gfMul params (c ^^^ A[0]) params.rsGen[31 - j] := by
  simp [rsUpdate, rsUpdateByte, hj]

theorem getElem_rsUpdate_last : (rsUpdate params A c)[31] = gfMul params (c ^^^ A[0]) params.rsGen[0] := by
  simp [rsUpdate, rsUpdateByte]

theorem length_generatorDown : (generatorDown params).length = 33 := by simp [generatorDown]

/-- R103 for the whole register: each byte moves one place toward index 0, and the generator below its leading
coefficient, times the feedback, is added. -/
theorem toList_rsUpdate :
    (rsUpdate params A c).toList =
      polyAdd ((generatorDown params).tail.map (gfMul params (c ^^^ A[0]))) (A.toList.tail ++ [0]) := by
  refine List.ext_getElem (by simp [polyAdd, length_generatorDown]) fun j hj _ => ?_
  rw [Vector.length_toList] at hj
  simp only [polyAdd, generatorDown, Vector.getElem_toList, List.getElem_zipWith, List.getElem_map, List.getElem_tail,
    List.getElem_reverse, Vector.length_toList]
  rcases Nat.lt_or_ge j 31 with hlt | hge
  · rw [getElem_rsUpdate _ _ _ hlt, BitVec.xor_comm, List.getElem_append_left (by simpa)]
    simp
  · obtain rfl : j = 31 := by omega
    rw [getElem_rsUpdate_last, List.getElem_append_right (by simp)]
    simp

end

/-- `toList_rsUpdate` with zeros appended, under the sum with another polynomial. -/
theorem generator_append_register (params : Params) (A : Accumulator) (c : Byte) (n : Nat) (q : List Byte) :
    polyAdd (polyAdd ((generatorDown params).tail.map (gfMul params (c ^^^ A[0])) ++ List.replicate n 0) q)
      (A.toList.tail ++ [0] ++ List.replicate n 0) =
    polyAdd q ((rsUpdate params A c).toList ++ List.replicate n 0) := by
  rw [polyAdd_comm _ q, polyAdd_assoc, polyAdd_append _ _ (by simp [length_generatorDown]), ← toList_rsUpdate,
    polyAdd_zeros List.length_replicate]

theorem LegalGenerator.generatorDown_eq {params : Params} (h : LegalGenerator params) :
    generatorDown params = 1 :: (generatorDown params).tail := by
  have hhead : (generatorDown params).head? = some 1 := by
    simp [generatorDown, List.getLast?_eq_getElem?, h.monic]
  exact List.eq_cons_of_mem_head? hhead

/-- Every feedback the register takes in (R103), in order: the coefficients of the multiple of the generator polynomial
that a code word is. -/
def feedbacks (params : Params) : Accumulator → List Byte → List Byte
  | _, [] => []
  | A, c :: rest => (c ^^^ A[0]) :: feedbacks params (rsUpdate params A c) rest

theorem length_feedbacks (params : Params) (A : Accumulator) (message : List Byte) :
    (feedbacks params A message).length = message.length := by
  induction message generalizing A with
  | nil => rfl
  | cons c rest ih => rw [feedbacks, List.length_cons, ih, List.length_cons]

theorem length_timesGenerator (params : Params) (q : List Byte) : (timesGenerator params q).length = q.length + 32 := by
  induction q with
  | nil => simp [timesGenerator]
  | cons c rest ih => simp [timesGenerator, polyAdd, length_generatorDown, ih]; omega

section
variable {params : Params} (hfield : LegalField params) (hgen : LegalGenerator params)
include hfield hgen

/-- One more coefficient in front: the product with the monic generator begins with it. -/
theorem timesGenerator_cons (c : Byte) (q : List Byte) :
    timesGenerator params (c :: q) =
      c :: polyAdd ((generatorDown params).tail.map (gfMul params c) ++ List.replicate q.length 0)
        (timesGenerator params q) := by
  rw [timesGenerator, hgen.generatorDown_eq, List.map_cons, hfield.gfMul_one]
  simp [polyAdd]

/-- One step of the register: a feedback in front of the multiple of the generator brings out the byte that came in, and
what is left of the old register is the new one. -/
theorem timesGenerator_feedback (A : Accumulator) (c : Byte) (q : List Byte) :
    polyAdd (timesGenerator params ((c ^^^ A[0]) :: q)) (A.toList ++ List.replicate (q.length + 1) 0) =
      c :: polyAdd (timesGenerator params q) ((rsUpdate params A c).toList ++ List.replicate q.length 0) := by
  have hA : A.toList = A[0] :: A.toList.tail := List.eq_cons_of_mem_head? (by simp [List.head?_eq_getElem?])
  have hc : c ^^^ A[0] ^^^ A[0] = c := by rw [BitVec.xor_assoc, BitVec.xor_self, BitVec.xor_zero]
  have hzeros : A.toList ++ List.replicate (q.length + 1) (0 : Byte) =
      A[0] :: (A.toList.tail ++ [0] ++ List.replicate q.length 0) := by
    rw [List.replicate_succ, List.append_assoc, ← List.cons_append, ← hA, List.singleton_append]
  rw [timesGenerator_cons hfield hgen, hzeros, polyAdd_cons, hc, generator_append_register]

/-- The register started at `A`: the message followed by what it leaves is the multiple of the generator polynomial
that the feedbacks give, plus `A` in the places of the first 32 bytes. -/
theorem message_append_register (A : Accumulator) (message : List Byte) :
    message ++ (message.foldl (rsUpdate params) A).toList =
      polyAdd (timesGenerator params (feedbacks params A message))
        (A.toList ++ List.replicate message.length 0) := by
  induction message generalizing A with
  | nil =>
    rw [feedbacks, timesGenerator, List.length_nil, List.replicate_zero, List.append_nil,
      zeros_polyAdd A.length_toList, List.foldl_nil, List.nil_append]
  | cons c rest ih =>
    have hstep := timesGenerator_feedback hfield hgen A c (feedbacks params (rsUpdate params A c) rest)
    rw [length_feedbacks, ← ih] at hstep
    rw [List.cons_append, List.foldl_cons, feedbacks, List.length_cons, hstep]

end

/-- Settles O25 (R105): the register started at zero adds nothing to the multiple of the generator polynomial. -/
theorem messageThenParityIsACodeWord : Obligations.MessageThenParityIsACodeWord := by
  intro params hfield hgen
  refine ⟨fun message => ⟨feedbacks params zeroAccumulator message, length_feedbacks _ _ _, ?_⟩, rfl⟩
  have hzero : zeroAccumulator.toList ++ List.replicate message.length 0 = List.replicate (message.length + 32) 0 := by
    rw [zeroAccumulator, Vector.toList_replicate, List.replicate_append_replicate, Nat.add_comm]
  rw [accumulatorAfter, message_append_register hfield hgen, hzero, polyAdd_zeros]
  rw [length_timesGenerator, length_feedbacks]

/-! ### The commands -/

section
variable {i : Instr} {s : State}

theorem exec_of_accepted (notStatus : isRdStatus i = false) (noFault : s.fault = false)
    (accepted : causeOf i s = none) :
    exec i s = .next (effectOf i s) := by
  rw [exec_eq i s notStatus, accepted, runChecked_none noFault]

/-- A command with `LANE` = 3 raises `ILLEGAL` before anything else is checked (R212, R217). -/
theorem exec_of_illFormed (notStatus : isRdStatus i = false) (noFault : s.fault = false) (illFormed : i.wf = false) :
    exec i s = .next (faulted .illegal (encode i) s) := by
  have hcause : causeOf i s = some .illegal := by rw [causeOf, illFormed, Bool.not_false, turnedAway_reserved]
  rw [exec_eq i s notStatus, hcause, runChecked_some noFault]
  rfl

theorem respond_of_noFault (rsp : Word) (noFault : s.fault = false) :
    respond rsp s = { s with out := .response rsp false } := by
  rw [respond, noFault]

end

theorem laneOf_of_val {n : Nat} {l : Lane} (h : n = l.val) : laneOf n = l :=
  Fin.ext ((congrArg (· % 3) h).trans (Nat.mod_eq_of_lt l.isLt))

/-- A `LANE` field that names an accumulator is not 3 (R75 (c)). -/
theorem lane_ne_three {lane : BitVec 2} {l : Lane} (h : lane.toNat = l.val) : (lane != 3) = true := by
  have hl := l.isLt
  rw [bne_iff_ne]
  rintro rfl
  exact absurd h (by simp; omega)

/-- Settles O20 (R107): RS_CLEAR is accepted in an idle block, and its effect clears the lanes. -/
theorem rsClearZeroesTheAccumulators : Obligations.RsClearZeroesTheAccumulators := by
  intro s noFault idle
  have accepted : causeOf .rsClear s = none :=
    (causeOf_eq_none_iff _ s).2 ⟨rfl, by simp [allowedIn, idle], rfl⟩
  rw [exec_of_accepted rfl noFault accepted, effectOf, respond_of_noFault 0 (by simpa using noFault)]
  rfl

/-- Settles O21 (R103, R108, R217): an accepted RS_UPDATE sets its lane to `rs_update` of the old value. -/
theorem rsUpdateStepsOneLane : Obligations.RsUpdateStepsOneLane := by
  constructor
  · intro s lane l c noFault idle hlane
    refine ⟨rsUpdate s.params s.p[l] c, fun j hj => getElem_rsUpdate _ _ _ hj, getElem_rsUpdate_last _ _ _, ?_⟩
    have accepted : causeOf (.rsUpdate lane c) s = none :=
      (causeOf_eq_none_iff _ s).2 ⟨lane_ne_three hlane, by simp [allowedIn, idle], rfl⟩
    rw [exec_of_accepted rfl noFault accepted, effectOf, laneOf_of_val hlane,
      respond_of_noFault 0 (by simpa using noFault)]
    rfl
  · intro s c noFault
    exact exec_of_illFormed (i := .rsUpdate 3 c) rfl noFault rfl

/-- Settles O22 (R109, R217): an accepted RS_READ, which every phase allows, answers with the byte of its lane. -/
theorem rsReadReturnsAParityByte : Obligations.RsReadReturnsAParityByte := by
  constructor
  · intro s lane l pos noFault hlane
    have accepted : causeOf (.rsRead lane pos) s = none :=
      (causeOf_eq_none_iff _ s).2 ⟨lane_ne_three hlane, rfl, rfl⟩
    obtain rfl : laneOf lane.toNat = l := laneOf_of_val hlane
    rw [exec_of_accepted rfl noFault accepted, effectOf, respond_of_noFault _ noFault]
  · intro s pos noFault
    exact exec_of_illFormed (i := .rsRead 3 pos) rfl noFault rfl

end Sys2Proof.Machine
end

section
/-! Proofs of the family `spec/41_line_8b10b.md`. -/

namespace Sys2Proof.Machine

/-! ### DC balance -/

/-- Where the running sum stands after a code that leans away from state `s` (R128, R130). -/
def leanFrom (s : Bool) : Int := if s then -2 else 2

theorem leanFrom_not (s : Bool) : leanFrom (!s) = -leanFrom s := by cases s <;> rfl

theorem imbalance_encSync (s : Bool) : imbalance (encSync s).symbol = leanFrom s := by cases s <;> decide

/-- What is sent in state `s` is balanced and keeps the state, or leans away from it and changes it (R128). -/
def KeepsOrLeans (s : Bool) (c : Coded) : Prop :=
  (imbalance c.symbol = 0 ∧ c.next = s) ∨ (imbalance c.symbol = leanFrom s ∧ c.next = !s)

theorem balancedTable_iff (params : Params) :
    BalancedTable params ↔ ∀ (s : Bool) (b : Byte), KeepsOrLeans s (encData params s b) := Iff.rfl

/-- A comma leans away from its state and changes it (R122), so it may stand in a stream as any entry of a balanced
table may. -/
theorem BalancedTable.encodeOne {params : Params} (h : BalancedTable params) (s : Bool) (x : LineInput) :
    KeepsOrLeans s (encodeOne params s x) := by
  cases x with
  | byte b => exact (balancedTable_iff params).1 h s b
  | sync => exact .inr ⟨imbalance_encSync s, rfl⟩

theorem runningImbalance_nil (k : Nat) : runningImbalance [] k = 0 := by simp [runningImbalance]
theorem runningImbalance_zero (ys : List Symbol) : runningImbalance ys 0 = 0 := rfl
theorem runningImbalance_cons (y : Symbol) (ys : List Symbol) (k : Nat) :
    runningImbalance (y :: ys) (k + 1) = imbalance y + runningImbalance ys k := by simp [runningImbalance]

/-- The sum leaves 0 only to the side the state leans away to, and the change of state brings it back. -/
theorem BalancedTable.runningImbalance_stream {params : Params} (h : BalancedTable params) (inputs : List LineInput)
    (s : Bool) (k : Nat) :
    runningImbalance (streamSymbols params s inputs) k = 0 ∨
    runningImbalance (streamSymbols params s inputs) k = leanFrom s := by
  induction inputs generalizing s k with
  | nil => exact .inl (runningImbalance_nil k)
  | cons x rest ih =>
    cases k with
    | zero => exact .inl (runningImbalance_zero _)
    | succ k =>
      rw [streamSymbols, runningImbalance_cons]
      obtain ⟨himbalance, hnext⟩ | ⟨himbalance, hnext⟩ := h.encodeOne s x
      · rw [himbalance, hnext, zero_add]
        exact ih s k
      · have hrest := ih (!s) k
        rw [leanFrom_not] at hrest
        rw [himbalance, hnext]
        omega

/-- Settles O28 (R130): the sum stays at 0 or where one symbol can lean from the starting state. -/
theorem streamsAreDcBalanced : Obligations.StreamsAreDcBalanced := fun _ balanced inputs k =>
  ⟨balanced.runningImbalance_stream inputs false k, balanced.runningImbalance_stream inputs true k⟩

/-! ### Decoding -/

section
variable {params : Params} (h : DecodableTable params)
include h

/-- No data symbol is taken for the comma of any state (R132). -/
theorem DecodableTable.symbol_ne_comma (s t : Bool) (b : Byte) : (encData params s b).symbol ≠ (encSync t).symbol := by
  obtain ⟨hne0, hne1⟩ := h.comma_reserved s b
  cases t
  · exact hne0
  · exact hne1

/-- `dec(s, enc(s, b))` is `b` and the next state: the search meets some byte of that symbol, and by R131 (a) there is
no other than `b`. -/
theorem DecodableTable.decodeSymbol_encData (s : Bool) (b : Byte) :
    decodeSymbol params s (encData params s b).symbol = some (b, (encData params s b).next) := by
  have hb : b ∈ (List.range 256).map (BitVec.ofNat 8) :=
    List.mem_map.2 ⟨b.toNat, List.mem_range.2 b.isLt, by rw [BitVec.ofNat_toNat, BitVec.setWidth_eq]⟩
  obtain ⟨c, hc⟩ := Option.isSome_iff_exists.1 (List.find?_isSome (p := fun c =>
    (encData params s c).symbol == (encData params s b).symbol).2 ⟨b, hb, beq_self_eq_true _⟩)
  have hsymbol := List.find?_some hc
  obtain rfl : c = b := h.injective s c b (eq_of_beq hsymbol)
  rw [decodeSymbol, hc, Option.map_some]

/-- The decoder reads one symbol back and goes on in the encoder's next state. -/
theorem DecodableTable.trackingDecode_cons (s : Bool) (x : LineInput) (ys : List Symbol) :
    trackingDecode params s ((encodeOne params s x).symbol :: ys) =
      (trackingDecode params (encodeOne params s x).next ys).map (x :: ·) := by
  cases x with
  | sync => rw [encodeOne, trackingDecode, if_pos rfl]
  | byte b => rw [encodeOne, trackingDecode, if_neg (h.symbol_ne_comma s s b), h.decodeSymbol_encData]

end

/-- Settles O29 (R131, R132), by induction on the stream, the state being tracked. -/
theorem trackingDecoderRecoversTheStream : Obligations.TrackingDecoderRecoversTheStream := by
  intro params decodable s inputs
  induction inputs generalizing s with
  | nil => rfl
  | cons x rest ih => rw [streamSymbols, decodable.trackingDecode_cons, ih, Option.map_some]

/-! ### The commands -/

theorem respondCoded_of_noFault {s : State} (c : Coded) (noFault : s.fault = false) :
    respondCoded c s = { s with rd := c.next, out := .response (c.symbol.setWidth 32) false } :=
  respond_of_noFault _ noFault

/-- Settles O26 (R121, R133): an accepted ENC_BYTE answers with what `enc_data` reads from the table. -/
theorem encByteLooksUpTheTable : Obligations.EncByteLooksUpTheTable := by
  rintro s b e noFault idle rfl
  have accepted : causeOf (.encByte b) s = none :=
    (causeOf_eq_none_iff _ s).2 ⟨rfl, by simp [allowedIn, idle], rfl⟩
  rw [exec_of_accepted rfl noFault accepted, effectOf, respondCoded_of_noFault _ noFault]
  rfl

theorem encSync_symbol_setWidth (s : Bool) : (encSync s).symbol.setWidth 32 = if s then (0x305 : Word) else 0x0FA := by
  cases s <;> rfl

/-- Settles O27 (R122, R134): an accepted ENC_SYNC answers with the comma of `enc_sync`. -/
theorem encSyncSendsTheCommaAndFlips : Obligations.EncSyncSendsTheCommaAndFlips := by
  intro s noFault idle
  have accepted : causeOf .encSync s = none :=
    (causeOf_eq_none_iff _ s).2 ⟨rfl, by simp [allowedIn, idle], rfl⟩
  rw [exec_of_accepted rfl noFault accepted, effectOf, respondCoded_of_noFault _ noFault, encSync_symbol_setWidth]
  rfl

/-! ### The construction of the default table -/

/-- The 6-bit code that state `s` uses for `x` (R125). -/
def sixCode (s : Bool) (x : BitVec 5) : BitVec 6 := codeIn s (sixBitCodes.getD x.toNat (0, 0))

/-- The 4-bit code that state `s` uses for `y`, `alternate` asking for the other code of 7 (R126). -/
def fourCode (s alternate : Bool) (y : BitVec 3) : BitVec 4 :=
  codeIn s (if y.toNat = 7 ∧ alternate then alternateCode else fourBitCodes.getD y.toNat (0, 0))

/-- The upper six bits of the symbol of `b` in state `s` (R124). -/
def sixBlock (s : Bool) (b : Byte) : BitVec 6 := sixCode s (b.extractLsb' 0 5)

/-- The state between the two codes of `b` (R128). -/
def middleState (s : Bool) (b : Byte) : Bool := stateAfter 6 (sixBlock s b) s

/-- The lower four bits of the symbol of `b` in state `s` (R124, R127). -/
def fourBlock (s : Bool) (b : Byte) : BitVec 4 :=
  fourCode (middleState s b) (usesAlternate (middleState s b) (b.extractLsb' 0 5).toNat) (b.extractLsb' 5 3)

theorem constructedEntry_eq (s : Bool) (b : Byte) : constructedEntry s b =
    BitVec.ofBool (stateAfter 4 (fourBlock s b) (middleState s b)) ++ sixBlock s b ++ fourBlock s b := rfl

/-- R129: the printed rows. -/
theorem default_rows_constructed (s : Bool) : (encDefault[s.toNat]'(Bool.toNat_lt s)).toList =
    (List.range 256).map fun b => constructedEntry s (BitVec.ofNat 8 b) := by
  cases s <;> decide +kernel

/-- Settles O52 (R124 to R129): entry `b` of a printed row is entry `b` of the constructed one. -/
theorem defaultCodeTableIsConstructed : Obligations.DefaultCodeTableIsConstructed := by
  intro n host pos le s b
  have hrow := congrArg (·[b.toNat]?) (default_rows_constructed s)
  simpa [b.isLt, encEntry, defaultParams] using hrow

/-! ### The default table is legal -/

/-- Ones minus zeros of a code of `n` bits (R130). -/
def codeImbalance {n : Nat} (v : BitVec n) : Int := 2 * (onesIn n v : Int) - n

theorem onesIn_append {n m : Nat} (u : BitVec n) (v : BitVec m) :
    onesIn (n + m) (u ++ v) = onesIn n u + onesIn m v := by
  have hlow : (List.range m).countP (fun k => (u ++ v).getLsbD k) = (List.range m).countP fun k => v.getLsbD k :=
    List.countP_congr fun k hk => by rw [BitVec.getLsbD_append, if_pos (List.mem_range.1 hk)]
  have hhigh : (List.range n).countP ((fun k => (u ++ v).getLsbD k) ∘ (m + ·)) =
      (List.range n).countP fun k => u.getLsbD k :=
    List.countP_congr fun k _ => by simp [BitVec.getLsbD_append]
  have hrange : List.range (n + m) = List.range m ++ (List.range n).map (m + ·) := by rw [Nat.add_comm, List.range_add]
  simp only [onesIn, ← List.countP_eq_length_filter]
  rw [hrange, List.countP_append, List.countP_map, hlow, hhigh, Nat.add_comm]

theorem imbalance_append (u : BitVec 6) (v : BitVec 4) : imbalance (u ++ v) = codeImbalance u + codeImbalance v := by
  have hones : onesIn 10 (u ++ v) = onesIn 6 u + onesIn 4 v := onesIn_append u v
  rw [imbalance, hones, codeImbalance, codeImbalance]
  omega

/-- A code entered in state `s` is balanced or leans away from `s`. -/
abbrev Leans {n : Nat} (v : BitVec n) (s : Bool) : Prop := codeImbalance v = 0 ∨ codeImbalance v = leanFrom s

section
variable {n : Nat} {v : BitVec n} {s : Bool}

theorem stateAfter_of_balanced (h : codeImbalance v = 0) : stateAfter n v s = s := by
  rw [codeImbalance] at h
  exact if_pos (by omega)

theorem stateAfter_of_leaning (h : codeImbalance v = leanFrom s) : stateAfter n v s = !s := by
  rw [codeImbalance, leanFrom] at h
  rw [stateAfter, if_neg (by split at h <;> omega)]
  cases s
  · exact decide_eq_true (by simp at h; omega)
  · exact decide_eq_false (by simp at h; omega)

end

/-! The facts about the two codes of which the default table is made: each is a check of their 32 and 8 rows. -/

theorem sixCode_leans : ∀ (s : Bool) (x : BitVec 5), Leans (sixCode s x) s := by decide +kernel

theorem fourCode_leans : ∀ (s alternate : Bool) (y : BitVec 3), Leans (fourCode s alternate y) s := by decide +kernel

/-- No 6-bit code stands in two rows of R125, so it names its row whatever state it is used in. -/
theorem eq_of_sixCode_eq : ∀ (s t : Bool) (x z : BitVec 5), sixCode s x = sixCode t z → x = z := by decide +kernel

/-- Nor does a 4-bit code in R126, the alternate ones included. -/
theorem eq_of_fourCode_eq : ∀ (s t a c : Bool) (y z : BitVec 3), fourCode s a y = fourCode t c z → y = z := by
  decide +kernel

/-- The upper six bits of the two commas are no code of R125. -/
theorem sixCode_ne_comma : ∀ (s : Bool) (x : BitVec 5),
    sixCode s x ≠ comma0.extractLsb' 4 6 ∧ sixCode s x ≠ comma1.extractLsb' 4 6 := by
  decide +kernel

theorem byte_eq_of_fields {b c : Byte} (hlow : b.extractLsb' 0 5 = c.extractLsb' 0 5)
    (hhigh : b.extractLsb' 5 3 = c.extractLsb' 5 3) : b = c := by
  have hsplit (a : Byte) : a.extractLsb' 5 3 ++ a.extractLsb' 0 5 = a :=
    (BitVec.extractLsb'_append_extractLsb'_eq_extractLsb' rfl).trans BitVec.extractLsb'_eq_self
  rw [← hsplit b, ← hsplit c, hlow, hhigh]

/-- The two codes of a symbol name its byte: R131 (b), across states. -/
theorem byte_eq_of_blocks {s t : Bool} {b c : Byte}
    (h : sixBlock s b ++ fourBlock s b = sixBlock t c ++ fourBlock t c) : b = c := by
  have hsix := congrArg (BitVec.extractLsb' 4 6) h
  have hfour := congrArg (BitVec.extractLsb' 0 4) h
  rw [BitVec.extractLsb'_append_eq_left, BitVec.extractLsb'_append_eq_left] at hsix
  rw [BitVec.extractLsb'_append_eq_right, BitVec.extractLsb'_append_eq_right] at hfour
  exact byte_eq_of_fields (eq_of_sixCode_eq _ _ _ _ hsix) (eq_of_fourCode_eq _ _ _ _ _ _ hfour)

section
variable (n : Nat) (host : HostByteOrder) (pos : 1 ≤ n) (le : n ≤ 21845) (s : Bool) (b : Byte)

theorem default_symbol :
    (encData (defaultParams n host pos le) s b).symbol = sixBlock s b ++ fourBlock s b := by
  rw [encData, defaultCodeTableIsConstructed, constructedEntry_eq, BitVec.append_assoc]
  exact BitVec.extractLsb'_append_eq_right

theorem default_next :
    (encData (defaultParams n host pos le) s b).next = stateAfter 4 (fourBlock s b) (middleState s b) := by
  rw [encData, defaultCodeTableIsConstructed, constructedEntry_eq]
  simp only [BitVec.getLsbD_append]
  simp

end

/-- Each of the two codes keeps the state or leans away from it, and where both lean the second undoes the first. -/
theorem default_balanced (n : Nat) (host : HostByteOrder) (pos : 1 ≤ n) (le : n ≤ 21845) :
    BalancedTable (defaultParams n host pos le) := by
  refine (balancedTable_iff _).2 fun s b => ?_
  have hsix : Leans (sixBlock s b) s := sixCode_leans _ _
  have hfour : Leans (fourBlock s b) (middleState s b) := fourCode_leans _ _ _
  rw [KeepsOrLeans, default_symbol, default_next, imbalance_append]
  obtain hsix | hsix := hsix
  · have hmiddle : middleState s b = s := stateAfter_of_balanced hsix
    rw [hsix, hmiddle, zero_add]
    rw [hmiddle] at hfour
    exact hfour.imp (fun h => ⟨h, stateAfter_of_balanced h⟩) (fun h => ⟨h, stateAfter_of_leaning h⟩)
  · have hmiddle : middleState s b = !s := stateAfter_of_leaning hsix
    rw [hsix, hmiddle]
    rw [hmiddle] at hfour
    obtain hfour | hfour := hfour
    · exact .inr ⟨by rw [hfour, add_zero], stateAfter_of_balanced hfour⟩
    · exact .inl ⟨by rw [hfour, leanFrom_not, add_neg_cancel], by rw [stateAfter_of_leaning hfour, Bool.not_not]⟩

theorem default_decodable (n : Nat) (host : HostByteOrder) (pos : 1 ≤ n) (le : n ≤ 21845) :
    DecodableTable (defaultParams n host pos le) := by
  have consistent (s t : Bool) (b c : Byte) (h : (encData (defaultParams n host pos le) s b).symbol =
      (encData (defaultParams n host pos le) t c).symbol) : b = c := by
    rw [default_symbol, default_symbol] at h
    exact byte_eq_of_blocks h
  refine ⟨fun s => consistent s s, consistent, fun s b => ?_⟩
  obtain ⟨hne0, hne1⟩ := sixCode_ne_comma s (b.extractLsb' 0 5)
  have hupper : (sixBlock s b ++ fourBlock s b).extractLsb' 4 6 = sixBlock s b := BitVec.extractLsb'_append_eq_left
  rw [default_symbol]
  exact ⟨fun h => hne0 (hupper.symm.trans (congrArg _ h)), fun h => hne1 (hupper.symm.trans (congrArg _ h))⟩

/-- Settles O51 (R128, R130 to R132): the default table is legal because the two codes it is made of are. -/
theorem defaultCodeTableIsLegal : Obligations.DefaultCodeTableIsLegal := fun n host pos le =>
  ⟨default_balanced n host pos le, default_decodable n host pos le⟩

end Sys2Proof.Machine
end

section
/-! Proofs of the family `spec/42_symbol_packer.md`. -/

namespace Sys2Proof.Machine

/-! ### The word a put writes -/

section
variable (s : State) (b : Bool) (v : Symbol)

/-- A put at slot 0 of word `w` leaves the symbol alone in it (R150). -/
theorem putValue_slotZero (w : Nat) : putValue s b (3 * w) v = v.setWidth 32 := by
  simp [putValue, putBase, offsetOfIndex]

/-- A put at another slot goes over what the word holds (R150). -/
theorem putBase_of_not_slotZero {j : Nat} (h : j % 3 ≠ 0) : putBase s b j = memRead s b (wordOfIndex j) := if_neg h

/-- A field of the word after a put: its old content ORed with what the shifted symbol brings (R150). -/
theorem bitField_putValue (j lo n : Nat) : bitField lo n (putValue s b j v) =
    bitField lo n (putBase s b j) ||| bitField lo n (v.setWidth 32 <<< offsetOfIndex j) := bitField_or lo n _ _

/-- `get_symbol` reads a field of its word (R51, R151). -/
theorem getSymbol_eq_bitField (i : Nat) :
    getSymbol s b i = bitField (offsetOfIndex i) 10 (memRead s b (wordOfIndex i)) := (symbolLayout s b i).1

end

/-- The offset of a symbol leaves room for its ten bits below bit 30 (R150). -/
theorem offsetOfIndex_add_ten_le (i : Nat) : offsetOfIndex i + 10 ≤ 30 := by
  simp only [offsetOfIndex]; omega

/-- Two symbols of one word do not overlap (R51). -/
theorem offsetOfIndex_disjoint {i j : Nat} (hword : wordOfIndex i = wordOfIndex j) (hne : j ≠ i) :
    offsetOfIndex i + 10 ≤ offsetOfIndex j ∨ offsetOfIndex j + 10 ≤ offsetOfIndex i := by
  simp only [wordOfIndex, offsetOfIndex] at *; omega

/-! ### The top two bits -/

/-- No put brings a 1 to bits 31:30: one at slot 0 clears them, and no other reaches them (R150). -/
theorem topBits_putSymbol {s : State} {b : Bool} {w : Nat} (h : bitField 30 2 (memRead s b w) = 0)
    (b' : Bool) (j : Nat) (v : Symbol) : bitField 30 2 (memRead (putSymbol b' j v s) b w) = 0 := by
  rw [memRead_putSymbol]
  split
  case isTrue hput =>
    obtain ⟨rfl, rfl⟩ := hput
    have hbase : bitField 30 2 (putBase s b j) = 0 := by
      unfold putBase; split
      · rfl
      · exact h
    rw [bitField_putValue, hbase, bitField_shiftLeft_disjoint v (.inr (offsetOfIndex_add_ten_le j))]
    rfl
  case isFalse => exact h

/-- A put at slot 0 clears bits 31:30 of its word (R150). -/
theorem topBits_putSymbol_slotZero (s : State) (b : Bool) (w : Nat) (z : Symbol) :
    bitField 30 2 (memRead (putSymbol b (3 * w) z s) b w) = 0 := by
  have hword : wordOfIndex (3 * w) = w := Nat.mul_div_cancel_left w (by decide)
  rw [memRead_putSymbol, if_pos ⟨rfl, hword.symm⟩, putValue_slotZero, bitField_setWidth_disjoint z (by decide)]

/-! ### Puts in order -/

/-- The operands of one `put_symbol`: buffer, index, symbol (R150). -/
abbrev Put := Bool × Nat × Symbol

/-- The state after each put in order. -/
def putAll (puts : List Put) (s : State) : State :=
  puts.foldl (fun u x => putSymbol x.1 x.2.1 x.2.2 u) s

theorem putAll_cons (b : Bool) (j : Nat) (v : Symbol) (puts : List Put) (s : State) :
    putAll ((b, j, v) :: puts) s = putAll puts (putSymbol b j v s) := rfl

/-- The top two bits of a word, once clear, stay clear (R152). -/
theorem topBits_putAll {s : State} {b : Bool} {w : Nat} (h : bitField 30 2 (memRead s b w) = 0)
    (puts : List Put) : bitField 30 2 (memRead (putAll puts s) b w) = 0 := by
  induction puts generalizing s with
  | nil => exact h
  | cons x rest ih => exact ih (topBits_putSymbol h x.1 x.2.1 x.2.2)

/-- Settles O35 (R152): the put at slot 0 clears the two bits, and every later put keeps them clear. -/
theorem topTwoBitsStayZero : Obligations.TopTwoBitsStayZero := fun s b w z puts =>
  topBits_putAll (topBits_putSymbol_slotZero s b w z) puts

/-! ### Reading a symbol back -/

/-- After a put at slot 0 of its word a symbol is the one put, or 0 (R150, R151). -/
theorem getSymbol_putSymbol_slotZero (s : State) (b : Bool) (i : Nat) (z : Symbol) :
    getSymbol (putSymbol b (3 * (i / 3)) z s) b i = if 3 * (i / 3) = i then z else 0 := by
  have hword : wordOfIndex i = wordOfIndex (3 * (i / 3)) := (Nat.mul_div_cancel_left _ (by decide)).symm
  rw [getSymbol_eq_bitField, memRead_putSymbol, if_pos ⟨rfl, hword⟩, putValue_slotZero]
  split
  case isTrue hslot =>
    have hoffset : offsetOfIndex i = 0 := by simp only [offsetOfIndex]; omega
    rw [hoffset, bitField_setWidth z (by decide)]
  case isFalse hslot =>
    exact bitField_setWidth_disjoint z (by simp only [offsetOfIndex]; omega)

/-- A put that is not at slot 0 of the symbol's word ORs into the symbol at its own index and keeps every other
(R150, R151). -/
theorem getSymbol_putSymbol {b b' : Bool} {i j : Nat} (h : ¬ (b' = b ∧ j = 3 * (i / 3))) (s : State) (v : Symbol) :
    getSymbol (putSymbol b' j v s) b i = if b' = b ∧ j = i then getSymbol s b i ||| v else getSymbol s b i := by
  rw [getSymbol_eq_bitField, getSymbol_eq_bitField, memRead_putSymbol]
  by_cases hput : b = b' ∧ wordOfIndex i = wordOfIndex j
  · obtain ⟨rfl, hword⟩ := hput
    have hslot : j % 3 ≠ 0 := fun h0 => h ⟨rfl, by simp only [wordOfIndex] at hword; omega⟩
    rw [if_pos ⟨rfl, hword⟩, bitField_putValue, putBase_of_not_slotZero s b hslot, ← hword]
    by_cases hj : j = i
    · rw [if_pos ⟨rfl, hj⟩, hj, bitField_shiftLeft v (le_trans (offsetOfIndex_add_ten_le i) (by decide))]
    · rw [if_neg fun e => hj e.2, bitField_shiftLeft_disjoint v (offsetOfIndex_disjoint hword hj)]
      exact BitVec.or_zero
  · rw [if_neg hput, if_neg]
    rintro ⟨rfl, rfl⟩
    exact hput ⟨rfl, rfl⟩

/-- The puts at index `i` of buffer `b`. -/
def putsAt (b : Bool) (i : Nat) (puts : List Put) : List Put :=
  puts.filter fun x => x.1 == b && x.2.1 == i

theorem putsAt_cons (b b' : Bool) (i j : Nat) (v : Symbol) (puts : List Put) :
    putsAt b i ((b', j, v) :: puts) = if b' = b ∧ j = i then (b', j, v) :: putsAt b i puts else putsAt b i puts := by
  simp [putsAt, List.filter_cons]

/-- A symbol ORed with each symbol put. -/
def orPuts (y : Symbol) (puts : List Put) : Symbol := puts.foldl (fun y x => y ||| x.2.2) y

/-- While the word is not started again, a symbol is what it was ORed with all that is put at its index (R153). -/
theorem getSymbol_putAll {b : Bool} {i : Nat} {puts : List Put}
    (h : ∀ x ∈ puts, ¬ (x.1 = b ∧ x.2.1 = 3 * (i / 3))) (s : State) :
    getSymbol (putAll puts s) b i = orPuts (getSymbol s b i) (putsAt b i puts) := by
  induction puts generalizing s with
  | nil => rfl
  | cons x rest ih =>
    obtain ⟨b', j, v⟩ := x
    obtain ⟨hx, hrest⟩ := List.forall_mem_cons.1 h
    rw [putAll_cons, ih hrest, getSymbol_putSymbol hx, putsAt_cons]
    split <;> rfl

/-- From a put at slot 0 on, a symbol is the OR of all that is put at its index, slot 0 itself included (R153). -/
theorem getSymbol_putAll_slotZero {b : Bool} {i : Nat} {puts : List Put}
    (h : ∀ x ∈ puts, ¬ (x.1 = b ∧ x.2.1 = 3 * (i / 3))) (s : State) (z : Symbol) :
    getSymbol (putAll ((b, 3 * (i / 3), z) :: puts) s) b i =
      orPuts 0 (putsAt b i ((b, 3 * (i / 3), z) :: puts)) := by
  rw [putAll_cons, getSymbol_putAll h, getSymbol_putSymbol_slotZero, putsAt_cons]
  by_cases hslot : 3 * (i / 3) = i
  · rw [if_pos hslot, if_pos ⟨rfl, hslot⟩]
    exact congrArg (orPuts · _) BitVec.zero_or.symm
  · rw [if_neg hslot, if_neg fun e => hslot e.2]

/-- Settles O34 (R153): the symbol is the OR of the one symbol put at its index. -/
theorem packerRoundTripAfterTheZeroingPut : Obligations.PackerRoundTripAfterTheZeroingPut := by
  intro s b i z v puts hzero honce
  calc getSymbol (putAll ((b, 3 * (i / 3), z) :: puts) s) b i
      = orPuts 0 (putsAt b i ((b, 3 * (i / 3), z) :: puts)) := getSymbol_putAll_slotZero hzero s z
    _ = orPuts 0 [(b, i, v)] := congrArg (orPuts 0) honce
    _ = v := BitVec.zero_or

/-! ### The commands -/

/-- Settles O31 (R150, R154): an accepted PUT_SYM is `put_symbol`, which sets one word. -/
theorem putSymWritesOneWord : Obligations.PutSymWritesOneWord := by
  intro s b idx sym noFault idle fits
  have accepted : causeOf (.putSym b idx sym) s = none :=
    (causeOf_eq_none_iff _ s).2 ⟨rfl, by simp [allowedIn, idle], decide_eq_false (Nat.not_le.2 fits)⟩
  refine ⟨(putSymbol b idx.toNat sym s).mem, ?state, fun b' w' => memRead_putSymbol s b b' idx.toNat w' sym⟩
  rw [exec_of_accepted rfl noFault accepted, effectOf, respond_of_noFault 0 (by simpa using noFault)]
  rfl

/-- The low ten bits as a mask (R151). -/
theorem getSymbol_setWidth (s : State) (b : Bool) (i : Nat) :
    (getSymbol s b i).setWidth 32 = (memRead s b (wordOfIndex i) >>> offsetOfIndex i) &&& 0x3FF := by
  have hlow : getSymbol s b i = bitField 0 10 (memRead s b (wordOfIndex i) >>> offsetOfIndex i) :=
    BitVec.setWidth_eq_extractLsb' (by decide)
  rw [hlow, setWidth_bitField]
  rfl

/-- Settles O32 (R151, R155): an accepted GET_SYM, which every phase allows, answers with the symbol it reads. -/
theorem getSymReadsOneSymbol : Obligations.GetSymReadsOneSymbol := by
  intro s b idx noFault fits
  have accepted : causeOf (.getSym b idx) s = none :=
    (causeOf_eq_none_iff _ s).2 ⟨rfl, rfl, decide_eq_false (Nat.not_le.2 fits)⟩
  rw [exec_of_accepted rfl noFault accepted, effectOf, respond_of_noFault _ noFault, getSymbol_setWidth]
  rfl

end Sys2Proof.Machine
end

section
/-! Proofs of the family `spec/43_frame_pipeline.md`. -/

namespace Sys2Proof.Machine

/-! ### The CRC step -/

section
variable (poly : Word)

/-- R171's turn: the shift, and the polynomial when the bit shifted out was set. -/
theorem crcShift_eq (t : Word) : crcShift poly t = (t >>> 1) ^^^ (if t.getLsbD 0 then poly else 0) := by
  unfold crcShift; split
  · rfl
  · exact BitVec.xor_zero.symm

/-- A turn is linear: bit 0 of a `xor` is the `xor` of the two bits, and so is what the polynomial brings in. -/
theorem crcShift_xor (t u : Word) : crcShift poly (t ^^^ u) = crcShift poly t ^^^ crcShift poly u := by
  have hpoly : (if (t ^^^ u).getLsbD 0 then poly else 0) =
      (if t.getLsbD 0 then poly else 0) ^^^ (if u.getLsbD 0 then poly else 0) := by
    rw [BitVec.getLsbD_xor]
    cases t.getLsbD 0 <;> cases u.getLsbD 0 <;> simp
  rw [crcShift_eq, crcShift_eq, crcShift_eq, hpoly, BitVec.ushiftRight_xor_distrib]
  ac_rfl

theorem crcShifts_xor (n : Nat) (t u : Word) :
    crcShifts poly n (t ^^^ u) = crcShifts poly n t ^^^ crcShifts poly n u := by
  induction n generalizing t u with
  | zero => rfl
  | succ n ih => rw [crcShifts, crcShift_xor, ih]; rfl

/-- While the bits shifted out are 0, the polynomial never comes in. -/
theorem crcShifts_of_lowBits_zero {n : Nat} {t : Word} (h : ∀ i < n, t.getLsbD i = false) :
    crcShifts poly n t = t >>> n := by
  induction n generalizing t with
  | zero => exact (BitVec.ushiftRight_zero t).symm
  | succ n ih =>
    have hturn : crcShift poly t = t >>> 1 := by rw [crcShift, h 0 n.succ_pos]; rfl
    have hrest (i : Nat) (hi : i < n) : (t >>> 1).getLsbD i = false := by
      rw [BitVec.getLsbD_ushiftRight]; exact h (1 + i) (by omega)
    rw [crcShifts, hturn, ih hrest, ← BitVec.shiftRight_add, Nat.add_comm]

end

/-- A word is its upper three bytes `xor` its low byte. -/
theorem upperBytes_xor_lowByte (x : Word) : (x >>> 8 <<< 8) ^^^ (x.extractLsb' 0 8).setWidth 32 = x := by
  apply BitVec.eq_of_getLsbD_eq
  intro i hi
  by_cases h : i < 8
  · simp [h, hi]
  · simp [h, hi, Nat.add_sub_cancel' (Nat.le_of_not_lt h)]

/-- A byte `xor`ed in at the low end is gone after a shift by a byte. -/
theorem xor_byte_ushiftRight (c : Word) (b : Byte) : (c ^^^ b.setWidth 32) >>> 8 = c >>> 8 := by
  ext i hi
  simp

/-- On the upper three bytes of a word the eight turns only shift. -/
theorem crcShifts_upperBytes (poly x : Word) : crcShifts poly 8 (x >>> 8 <<< 8) = x >>> 8 := by
  have hlow (i : Nat) (hi : i < 8) : (x >>> 8 <<< 8).getLsbD i = false := by simp [hi]
  rw [crcShifts_of_lowBits_zero poly hlow, ← xor_byte_ushiftRight _ (x.extractLsb' 0 8), upperBytes_xor_lowByte]

/-- The entry of a byte is the eight turns on it (R171). -/
theorem crcStep_zero (params : Params) (b : Byte) : crcStep params 0 b = crcShifts params.crcPoly 8 (b.setWidth 32) :=
  congrArg (crcShifts params.crcPoly 8) BitVec.zero_xor

/-- Settles O36 (R171): the turns are linear, so they act apart on the upper three bytes, which they only shift, and on
the low byte, whose turns are its table entry. -/
theorem crcStepIsTheTableStep : Obligations.CrcStepIsTheTableStep := by
  intro params c b
  constructor
  case left =>
    intro turn
    have hturn : turn = crcShift params.crcPoly := funext fun t => (crcShift_eq params.crcPoly t).symm
    rw [hturn]
    rfl
  case right =>
    rw [crcStep_zero]
    generalize hx : c ^^^ b.setWidth 32 = x
    calc crcStep params c b = crcShifts params.crcPoly 8 x := by rw [crcStep, hx]
      _ = crcShifts params.crcPoly 8 (x >>> 8 <<< 8) ^^^
          crcShifts params.crcPoly 8 ((x.extractLsb' 0 8).setWidth 32) := by
        rw [← crcShifts_xor, upperBytes_xor_lowByte]
      _ = (c >>> 8) ^^^ crcShifts params.crcPoly 8 ((x.extractLsb' 0 8).setWidth 32) := by
        rw [crcShifts_upperBytes, ← hx, xor_byte_ushiftRight]

/-! ### The CRC bytes -/

theorem eq_append_bytes (v : Word) :
    v = v.extractLsb' 24 8 ++ v.extractLsb' 16 8 ++ v.extractLsb' 8 8 ++ v.extractLsb' 0 8 := by
  have h24 : v.extractLsb' 24 8 ++ v.extractLsb' 16 8 = v.extractLsb' 16 16 :=
    BitVec.extractLsb'_append_extractLsb'_eq_extractLsb' rfl
  have h16 : v.extractLsb' 16 16 ++ v.extractLsb' 8 8 = v.extractLsb' 8 24 :=
    BitVec.extractLsb'_append_extractLsb'_eq_extractLsb' rfl
  have h8 : v.extractLsb' 8 24 ++ v.extractLsb' 0 8 = v.extractLsb' 0 32 :=
    BitVec.extractLsb'_append_extractLsb'_eq_extractLsb' rfl
  rw [h24, h16, h8, BitVec.extractLsb'_eq_self]

theorem crcBytes_of_msbFirst {params : Params} (h : params.crcByteOrder = .msbFirst) (v : Word) : crcBytes params v =
    [v.extractLsb' 24 8, v.extractLsb' 16 8, v.extractLsb' 8 8, v.extractLsb' 0 8] := by rw [crcBytes, h]

theorem crcBytes_of_lsbFirst {params : Params} (h : params.crcByteOrder = .lsbFirst) (v : Word) : crcBytes params v =
    [v.extractLsb' 0 8, v.extractLsb' 8 8, v.extractLsb' 16 8, v.extractLsb' 24 8] := by rw [crcBytes, h]

theorem crcBytes_zero (params : Params) : crcBytes params 0 = [0, 0, 0, 0] := by
  cases h : params.crcByteOrder with
  | msbFirst => exact crcBytes_of_msbFirst h 0
  | lsbFirst => exact crcBytes_of_lsbFirst h 0

/-- `CRC_INIT` and `CRC_XOROUT` cancel (R5, R171). -/
theorem frameCrc_nil_xorOut (params : Params) : frameCrc params [] ^^^ crcXorOut = 0 := BitVec.xor_self

/-- Settles O40 (R171, R175, R176): either order lists the four bytes of the word, and no data leave the word 0. -/
theorem crcBytesInWireOrder : Obligations.CrcBytesInWireOrder := by
  intro params v
  refine ⟨?msbFirst, ?lsbFirst, ?noData⟩
  case msbFirst => exact fun h => ⟨_, _, _, _, crcBytes_of_msbFirst h v, eq_append_bytes v⟩
  case lsbFirst => exact fun h => ⟨_, _, _, _, crcBytes_of_lsbFirst h v, eq_append_bytes v⟩
  case noData => exact (congrArg (crcBytes params) (frameCrc_nil_xorOut params)).trans (crcBytes_zero params)

/-! ### The commands -/

theorem beginFrame_fault (b ls : Bool) (s : State) : (beginFrame b ls s).fault = s.fault := by cases ls <;> rfl

/-- With a leading sync FRAME_BEGIN puts the comma at slot 0 of word 0, alone in its word (R150, R172). -/
theorem memRead_beginFrame_sync (b : Bool) (s : State) (b' : Bool) (w' : Nat) :
    memRead (beginFrame b true s) b' w' =
      if b' = b ∧ w' = 0 then (encSync s.rd).symbol.setWidth 32 else memRead s b' w' := by
  have hsync := memRead_emitCoded (beginFrame b false s) (encSync s.rd) b' w'
  have hsidx : (beginFrame b false s).sidx.toNat = 3 * 0 := rfl
  have hword : wordOfIndex (3 * 0) = 0 := rfl
  rw [hsidx, hword, putValue_slotZero] at hsync
  exact hsync

/-- Settles O37 (R172): an accepted FRAME_BEGIN is `beginFrame`, which without a leading sync writes no word and with
it one. -/
theorem frameBeginStartsAFrame : Obligations.FrameBeginStartsAFrame := by
  intro s b ls noFault idle
  refine ⟨(beginFrame b ls s).mem, ?state, fun b' w' => ?words⟩
  case state =>
    rw [exec_of_accepted rfl noFault (causeOf_frameBegin idle b ls), effectOf,
      respond_of_noFault 0 ((beginFrame_fault b ls s).trans noFault)]
    cases ls <;> rfl
  case words =>
    cases ls with
    | false => rfl
    | true =>
      have hsync := memRead_beginFrame_sync b s b' w'
      rw [encSync_symbol_setWidth] at hsync
      simp only [true_and]
      exact hsync

/-- FRAME_DATA is accepted in a frame while the buffer is not full (R174, R219). -/
theorem causeOf_frameData {s : State} (phase : s.phase = .inFrame) (fits : s.sidx.toNat < 3 * s.params.bufWords)
    (d : Byte) : causeOf (.frameData d) s = none :=
  (causeOf_eq_none_iff _ s).2 ⟨rfl, by simp [allowedIn, phase], decide_eq_false (Nat.not_le.2 fits)⟩

/-- Settles O38 (R173, R174): an accepted FRAME_DATA is `push_byte` after the CRC step, which sets one word. -/
theorem frameDataPushesOneByte : Obligations.FrameDataPushesOneByte := by
  rintro s d e noFault phase fits rfl
  refine ⟨(dataByte d s).mem, ?state, fun b' w' => ?words⟩
  case state =>
    rw [exec_of_accepted rfl noFault (causeOf_frameData phase fits d), effectOf,
      respond_of_noFault (s := dataByte d s) _ noFault]
    rfl
  case words => exact memRead_pushByte { s with crc := crcStep s.params s.crc d } d b' w'

end Sys2Proof.Machine
end

section
/-! Proofs of the family `spec/44_status.md`. -/

namespace Sys2Proof.Machine

/-! ### The selected register -/

section
variable (status crc fcmd : Word) (bidx : Index)

@[simp] theorem statusSelect_zero : statusSelect 0 status crc fcmd bidx = status := rfl
@[simp] theorem statusSelect_one : statusSelect 1 status crc fcmd bidx = crc := rfl
@[simp] theorem statusSelect_two : statusSelect 2 status crc fcmd bidx = bidx.setWidth 32 := rfl
@[simp] theorem statusSelect_three : statusSelect 3 status crc fcmd bidx = fcmd := rfl

end

/-! ### The command -/

/-- RD_STATUS is subject to no check of phase or fault and writes only the response port (R200, R214). -/
theorem exec_rdStatus_eq_response (sel : BitVec 2) (s : State) :
    exec (.rdStatus sel) s =
      .next { s with out := .response (statusSelect sel (statusWord s) s.crc s.fcmd s.bidx) s.fault } := by
  rw [exec_rdStatus, effectOf, respond]

/-- Settles O45 (R200): RD_STATUS answers with what `statusSelect` picks, which is read off for each selector. -/
theorem rdStatusReadsTheSelectedRegister : Obligations.RdStatusReadsTheSelectedRegister := by
  intro s
  refine ⟨?status, ?crc, ?bidx, ?fcmd⟩
  case status => rw [exec_rdStatus_eq_response, statusSelect_zero]
  case crc => rw [exec_rdStatus_eq_response, statusSelect_one]
  case bidx => rw [exec_rdStatus_eq_response, statusSelect_two]
  case fcmd => rw [exec_rdStatus_eq_response, statusSelect_three]

end Sys2Proof.Machine
end

section
/-! Proofs of the family `spec/60_exceptions.md`. -/

namespace Sys2Proof.Machine

/-! ### The checks of R212 -/

section
variable {i : Instr} {s : State}

theorem exists_of_isRdStatus (h : isRdStatus i = true) : ∃ sel, i = .rdStatus sel := by
  cases i with
  | rdStatus sel => exact ⟨sel, rfl⟩
  | _ => simp [isRdStatus] at h

/-- RD_STATUS is exempt from the phase and the capacity table (R200). -/
theorem causeOf_of_isRdStatus (h : isRdStatus i = true) (s : State) : causeOf i s = none := by
  obtain ⟨sel, rfl⟩ := exists_of_isRdStatus h
  rfl

theorem causeOf_eq_seq_iff (wf : WellFormed i) : causeOf i s = some .seq ↔ allowedIn i s.phase = false := by
  unfold causeOf turnedAway
  cases allowedIn i s.phase <;> cases overCapacity i s <;> simp [wf]

theorem causeOf_eq_cap_iff (wf : WellFormed i) :
    causeOf i s = some .cap ↔ allowedIn i s.phase = true ∧ overCapacity i s = true := by
  unfold causeOf turnedAway
  cases allowedIn i s.phase <;> cases overCapacity i s <;> simp [wf]

/-! ### A command turned away, ignored or executed -/

/-- A failing check raises its fault (R213); the command is no RD_STATUS, which no check turns away. -/
theorem exec_of_turnedAway {c : Cause} (noFault : s.fault = false) (turned : causeOf i s = some c) :
    exec i s = .next (faulted c (encode i) s) := by
  have notStatus : isRdStatus i = false := by
    rw [← Bool.not_eq_true]
    intro h
    rw [causeOf_of_isRdStatus h s] at turned
    cases turned
  rw [exec_eq i s notStatus, turned, runChecked_some noFault]
  rfl

theorem exec_of_fault (notStatus : isRdStatus i = false) (fault : s.fault = true) :
    exec i s = .next (ignoreCommand s) := by
  rw [exec_eq i s notStatus, runChecked_of_fault fault]

/-- A command that runs and passes the checks leaves `FAULT`, `CAUSE` and `FCMD` alone (R212 (5)). -/
theorem exec_keeps_fault_registers (runs : s.fault = false ∨ isRdStatus i = true) (accepted : causeOf i s = none) :
    ∃ t, exec i s = .next t ∧ t.fault = s.fault ∧ t.cause = s.cause ∧ t.fcmd = s.fcmd := by
  obtain ⟨-, hfault, hcause, hfcmd, -⟩ := effectOf_frame i s
  refine ⟨effectOf i s, ?_, hfault, hcause, hfcmd⟩
  cases status : isRdStatus i with
  | false => exact exec_of_accepted status (runs.resolve_right (by simp [status])) accepted
  | true =>
    obtain ⟨sel, rfl⟩ := exists_of_isRdStatus status
    exact exec_rdStatus sel s

end

theorem reservedWord_eq (w : Word) (s : State) :
    reservedWord w s = if s.fault then ignoreCommand s else faulted .illegal w s := rfl

/-! ### The phase and the capacity table -/

/-- Settles O15 (R218): the cause of a well-formed command is `SEQ` exactly when its phase does not allow it, and a
command that executes keeps `CAUSE`. -/
theorem outOfPhaseRaisesSeq : Obligations.OutOfPhaseRaisesSeq := by
  intro i s wf noFault
  refine ⟨fun outOfPhase => exec_of_turnedAway noFault ((causeOf_eq_seq_iff wf).2 outOfPhase), ?allowed⟩
  case allowed =>
    intro allowed t h hseq
    cases turned : causeOf i s with
    | none =>
      obtain ⟨u, e, -, hcause, -⟩ := exec_keeps_fault_registers (.inl noFault) turned
      cases e.symm.trans h
      exact hcause.symm.trans hseq
    | some c =>
      cases (exec_of_turnedAway noFault turned).symm.trans h
      obtain rfl : c = .seq := hseq
      exact absurd allowed (by simp [(causeOf_eq_seq_iff wf).1 turned])

/-- Settles O16 (R219): an allowed command has the cause `CAP` when its symbols do not fit, and none when they do. -/
theorem overCapacityRaisesCap : Obligations.OverCapacityRaisesCap := by
  intro i s wf noFault allowed
  constructor
  · intro tooMany
    exact exec_of_turnedAway noFault ((causeOf_eq_cap_iff wf).2 ⟨allowed, tooMany⟩)
  · intro fits
    have accepted : causeOf i s = none := (causeOf_eq_none_iff i s).2 ⟨wf, allowed, fits⟩
    obtain ⟨t, e, hfault, hcause, hfcmd⟩ := exec_keeps_fault_registers (.inl noFault) accepted
    exact ⟨t, e, hfault.trans noFault, hcause, hfcmd⟩

/-! ### The order of the checks over the words -/

/-- The word of a command under the checks of R212, in their order. -/
theorem exec_firstFailingCheck {i : Instr} (wf : WellFormed i) (s : State) :
    if s.fault = true ∧ isRdStatus i = false then exec i s = .next (ignoreCommand s)
    else if isRdStatus i = false ∧ allowedIn i s.phase = false then exec i s = .next (faulted .seq (encode i) s)
    else if isRdStatus i = false ∧ overCapacity i s = true then exec i s = .next (faulted .cap (encode i) s)
    else ∃ t, exec i s = .next t ∧ t.fault = s.fault ∧ t.cause = s.cause ∧ t.fcmd = s.fcmd := by
  cases status : isRdStatus i with
  | true => simpa using exec_keeps_fault_registers (.inr status) (causeOf_of_isRdStatus status s)
  | false =>
    simp only [and_true, true_and]
    split_ifs with fault outOfPhase tooMany
    · exact exec_of_fault status fault
    · exact exec_of_turnedAway (by simpa using fault) ((causeOf_eq_seq_iff wf).2 outOfPhase)
    · exact exec_of_turnedAway (by simpa using fault) ((causeOf_eq_cap_iff wf).2 ⟨by simpa using outOfPhase, tooMany⟩)
    · exact exec_keeps_fault_registers (.inl (by simpa using fault))
        ((causeOf_eq_none_iff i s).2 ⟨wf, by simpa using outOfPhase, by simpa using tooMany⟩)

theorem overCapacity_with_inputs (i : Instr) (s : State) (ins : List Input) :
    overCapacity i { s with inputs := ins } = overCapacity i s := by cases i <;> rfl

/-- Settles O17 (R212): a reserved word is `reservedWord`, and a word that decodes is the word of a well-formed command,
which meets the checks in order. -/
theorem firstFailingCheckDecides : Obligations.FirstFailingCheckDecides := by
  rintro s _ w rest hi rfl
  rw [step_of_command hi]
  cases hd : decode w with
  | reserved why => exact (runWord_of_reserved hd _).trans (congrArg _ (reservedWord_eq w _))
  | command i =>
    obtain ⟨rfl, wf⟩ := (decode_eq_command_iff w i).1 hd
    have checks := exec_firstFailingCheck wf { s with inputs := rest }
    rw [overCapacity_with_inputs, ← runWord_of_decode hd] at checks
    exact checks

/-! ### Precise faults -/

/-- A command word that sets `FAULT` raises one of the three faults, `FCMD` being that word (R213). -/
theorem faulted_of_runWord {w : Word} {s t : State} (h : runWord w s = .next t) (before : s.fault = false)
    (after : t.fault = true) : ∃ c, (c = .illegal ∨ c = .seq ∨ c = .cap) ∧ t = faulted c w s := by
  rcases runWord_cases w s with ⟨i, hd, e⟩ | ⟨why, -, e⟩ <;> rw [e] at h
  · obtain ⟨rfl, -⟩ := (decode_eq_command_iff w i).1 hd
    cases turned : causeOf i s with
    | none =>
      obtain ⟨u, e, hfault, -⟩ := exec_keeps_fault_registers (.inl before) turned
      cases e.symm.trans h
      simp [hfault, before] at after
    | some c =>
      cases (exec_of_turnedAway before turned).symm.trans h
      exact ⟨c, turnedAway_cause turned, rfl⟩
  · cases h
    exact ⟨.illegal, .inl rfl, by simp [reservedWord_eq, before]⟩

/-- Settles O18 (R210, R213, R216): of what can stand at the ports only a command word sets `FAULT`; an idle step and an
outside read keep it, and `rst` clears it. -/
theorem faultIsPrecise : Obligations.FaultIsPrecise := by
  intro s t h before after
  rcases step_cases s with ⟨-, e⟩ | ⟨w, rest, hi, e⟩ | ⟨rest, -, e⟩ | ⟨b, w, rest, -, e⟩ <;> rw [e] at h
  case inl => cases h; simp [before] at after
  case inr.inl =>
    obtain ⟨c, hc, ht⟩ := faulted_of_runWord h before after
    exact ⟨w, rest, c, hi, hc, ht⟩
  case inr.inr.inl => cases h; cases after
  case inr.inr.inr =>
    rcases outsideRead_cases b w.toNat { s with inputs := rest } with ⟨-, e⟩ | ⟨-, v, n, e⟩ <;> rw [e] at h <;> cases h
    simp [before] at after

/-! ### The idle and the faulted block -/

theorem step_of_noInput {s : State} (hi : s.inputs = []) : step s = .next (idleStep s) := by simp [step, takeInput, hi]

/-- Settles O10 (R227): with nothing at the ports a step is `idleStep`, which writes only the port. -/
theorem idleStepKeepsEveryRegister : Obligations.IdleStepKeepsEveryRegister := fun _ hi => step_of_noInput hi

/-- While `FAULT` = 1 a word that is no RD_STATUS is ignored, legal or reserved (R214). -/
theorem runWord_of_fault {w : Word} {s : State} (fault : s.fault = true)
    (notStatus : ∀ sel, decode w ≠ .command (.rdStatus sel)) : runWord w s = .next (ignoreCommand s) := by
  rcases runWord_cases w s with ⟨i, hd, e⟩ | ⟨why, -, e⟩
  · have hstatus : isRdStatus i = false := by
      rw [← Bool.not_eq_true]
      intro h
      obtain ⟨sel, rfl⟩ := exists_of_isRdStatus h
      exact notStatus sel hd
    rw [e, exec_of_fault hstatus fault]
  · rw [e, reservedWord_eq, if_pos fault]

/-- RD_STATUS is the one command that runs in a faulted block (R214). -/
theorem exec_rdStatus_of_fault {s : State} (fault : s.fault = true) (sel : BitVec 2) :
    exec (.rdStatus sel) s =
      .next { s with out := .response (statusSelect sel (statusWord s) s.crc s.fcmd s.bidx) true } := by
  rw [exec_rdStatus_eq_response, fault]

/-- Settles O14 (R214): RD_STATUS answers whatever `FAULT` is, and any other word is ignored. -/
theorem faultedBlockOnlyReadsStatus : Obligations.FaultedBlockOnlyReadsStatus := by
  intro s w rest hi fault
  rw [step_of_command hi]
  constructor
  · intro sel hd
    exact (runWord_of_decode hd _).trans (exec_rdStatus_of_fault (s := { s with inputs := rest }) fault sel)
  · exact runWord_of_fault (s := { s with inputs := rest }) fault

end Sys2Proof.Machine
end
